-- ==== Sys2Proof/Word.lean ====
section
/-! DEFINITION. The value types of the spec: bytes, register words, the two encoding schemes, colors and
byte ranges (00_scope.md R8, R9; 10_state.md R20, R21; 10_state.md R38). -/

namespace Sys2Proof

/-- One 8-bit byte; bit 7 is the most significant (R8). -/
abbrev Byte := BitVec 8

/-- One 32-bit register word, and also one 32-bit system address (R8, R24, R50). -/
abbrev Word := BitVec 32

/-- The closed set of encoding schemes (R2, R21). -/
inductive Scheme where
  | threeBit
  | fourBit
  deriving DecidableEq, Repr, Inhabited

/-- A Color: three independent 8-bit channels, compared by value (R20). -/
structure Color where
  red : Byte
  green : Byte
  blue : Byte
  deriving DecidableEq, Repr, Inhabited

/-- The byte range `[base, base + size)` of system addresses, in exact naturals (R10, R38, R77). -/
structure Range where
  base : Nat
  size : Nat
  deriving DecidableEq, Repr, Inhabited

end Sys2Proof
end

