-- ==== Sys2Proof/Config.lean ====
section
/-! DEFINITION. What the spec fixes once (00_scope.md R7), the platform's OPEN parameters as plain data, the
turns the agents and the outside world take, and the free values: constants with no body, so that nothing in
Lean can evaluate them. -/

namespace Sys2Proof

/-- `HOST_ENDIAN` (R7, R55): no rule of the block depends on it. -/
inductive Endian where
  | little
  | big
  deriving DecidableEq, Repr, Inhabited

/-- The OPEN parameters of R7, as an argument the model takes. Log 2. -/
structure Platform where
  /-- `REG_BASE`, with `REG_BASE + 0x20 <= 2^32` by its type (R235, D3). -/
  regBase : Fin 0xFFFFFFE1
  /-- The addresses with `MemOK = true`, as ranges (R52, D20). -/
  admitted : List Range
  /-- `F_BIT(ThreeBit)` (R188, D30). -/
  fBit3 : Nat
  /-- `F_BIT(FourBit)` (R188, D30). -/
  fBit4 : Nat
  /-- The strip's latch threshold (R189). -/
  latch : Nat
  /-- How far `T_SETTLE` exceeds the least value above that threshold (R189, D30); see `Platform.tSettle`. -/
  settleMargin : Nat
  /-- `HOST_ENDIAN` (R55, D33). -/
  hostEndian : Endian
  /-- `fourBitTimingOK`: the FourBit waveform meets the strip's timing (R114, 93 item 6). -/
  fourBitTimingOK : Bool
  deriving DecidableEq, Repr, Inhabited

/-- `T_SETTLE`, which exceeds the strip's latch threshold by its form (R7, R189, D30). -/
def Platform.tSettle (p : Platform) : Nat := p.latch + 1 + p.settleMargin

/-- Who takes the next step (R11), or which outside input lands next. Log 3. -/
inductive Turn where
  /-- The host runs its next statement (R23). -/
  | host
  /-- The core takes its step (R141). -/
  | core
  /-- The transport completes its `k`-th transfer in flight (R184). -/
  | transport (k : Nat)
  /-- The block reset input is asserted (R230). -/
  | reset
  /-- The hardware-configuration collaborator sets the transport's bit clock (R188). -/
  | setClock (f : Nat)
  /-- A glitch on the data line (R192; 93 item 8). -/
  | glitch
  deriving DecidableEq, Repr, Inhabited

/-- `REG_SPAN`, the size of the register block in bytes (R7, R24). -/
def Config.regSpan : Nat := 0x20

/-- The number of byte addresses, `2^ADDR_W` (R7, R50). -/
def Config.addrLimit : Nat := 0x100000000

/-- FREE VALUE: the platform of the launch state. Log 2. -/
opaque Config.platform : Platform

/-- FREE VALUE: the `n`-th `draw` between two values (R10, R232, R243). Log 4. -/
opaque Config.freeBit : Nat → Bool

/-- FREE VALUE: the turn taken when the agenda names none (R11). Log 3. -/
opaque Config.freeTurn : Nat → Turn

/-- FREE VALUE: what LED `led` shows while a frame is not settled, at the moment that has `turnsLeft` turns planned and
`draws` free values drawn, which every step changes (R169, R188, R190). Log 25. -/
opaque Config.unsettledColor : (turnsLeft draws led : Nat) → Color

/-- FREE VALUE: what LED `led` shows after frame `frame` where the spec gives the strip's display no meaning
(R188 to R190, R192, R114; 93 items 6, 7, 8, 20). Log 19. -/
opaque Config.freeColor : (frame led : Nat) → Color

end Sys2Proof
end

