-- ==== Sys2Proof/Syntax.lean ====
section
/-! DEFINITION. The syntax: the block's registers, `Instr` with one constructor for each row of
spec/opcode_table.json, the bus transactions that carry them (30_encoding.md R87), and the host statements and
programs of 30_encoding.md R84 and R85. -/

namespace Sys2Proof

/-- The eight registers, in the order of their offsets (R24). -/
inductive Reg where
  | ctrl
  | ledCount
  | color
  | srcAddr
  | dstAddr
  | dstCap
  | status
  | byteCount
  deriving DecidableEq, Repr, Inhabited

/-- A host variable (R84), named by a number. Log 15. -/
abbrev Var := Nat

/-- A label (R84, R168), named by a number. Log 15. -/
abbrev Label := Nat

/-- The block's instructions: one constructor for each row of the opcode table. `ign` is bits 30:4 of the CTRL
word, which a write ignores (R70, R73); it is kept so that no bit of a word is lost in decoding. -/
inductive Instr where
  /-- RD: read register `r` into the host variable `t` (R160). -/
  | rd (r : Reg) (t : Var)
  /-- WR: write `data` to register `r`, which is not CTRL in a well-formed instruction (R161, R162, R166). -/
  | wr (r : Reg) (data : Word)
  /-- CTRLSET: a CTRL write with START = 0 (R163). -/
  | ctrlset (ign : BitVec 27) (scheme op : BitVec 2)
  /-- ENCODE.3, CTRL word 0x80000000 (R143). -/
  | encode3 (ign : BitVec 27)
  /-- ENCODE.4, CTRL word 0x80000004 (R144). -/
  | encode4 (ign : BitVec 27)
  /-- BUILDFRAME.3, CTRL word 0x80000001 (R145). -/
  | buildframe3 (ign : BitVec 27)
  /-- BUILDFRAME.4, CTRL word 0x80000005 (R146). -/
  | buildframe4 (ign : BitVec 27)
  /-- BUILDSINGLE.3, CTRL word 0x80000002 (R147). -/
  | buildsingle3 (ign : BitVec 27)
  /-- BUILDSINGLE.4, CTRL word 0x80000006 (R148). -/
  | buildsingle4 (ign : BitVec 27)
  /-- RESERVED_OP, CTRL words 0x80000003, 7, B, F: OP = 0b11 with any SCHEME (R149). -/
  | reservedOp (ign : BitVec 27) (scheme : BitVec 2)
  /-- RESERVED_SCHEME, CTRL word 0x80000008: SCHEME = 0b10 with ENCODE (R150). -/
  | reservedScheme8 (ign : BitVec 27)
  /-- RESERVED_SCHEME, CTRL word 0x80000009: SCHEME = 0b10 with BUILDFRAME (R150). -/
  | reservedScheme9 (ign : BitVec 27)
  /-- RESERVED_SCHEME, CTRL word 0x8000000A: SCHEME = 0b10 with BUILDSINGLE (R150). -/
  | reservedSchemeA (ign : BitVec 27)
  /-- RESERVED_SCHEME, CTRL word 0x8000000C: SCHEME = 0b11 with ENCODE (R150). -/
  | reservedSchemeC (ign : BitVec 27)
  /-- RESERVED_SCHEME, CTRL word 0x8000000D: SCHEME = 0b11 with BUILDFRAME (R150). -/
  | reservedSchemeD (ign : BitVec 27)
  /-- RESERVED_SCHEME, CTRL word 0x8000000E: SCHEME = 0b11 with BUILDSINGLE (R150). -/
  | reservedSchemeE (ign : BitVec 27)
  deriving DecidableEq, Repr, Inhabited

/-- The kind of a bus transaction (R87): a read names the host variable its value goes to (R160), a write
carries its data word. -/
inductive BusKind where
  | read (t : Var)
  | write (data : Word)
  deriving DecidableEq, Repr, Inhabited

/-- A bus transaction (R87): `offset` is `addr - REG_BASE` in the 8 bits the opcode table gives it, `width` is
in bytes. -/
structure BusAccess where
  kind : BusKind
  offset : BitVec 8
  width : Nat
  deriving DecidableEq, Repr, Inhabited

/-- The two delivery modes of a transfer (R183, R184). -/
inductive XmitMode where
  | sync
  | async
  deriving DecidableEq, Repr, Inhabited

/-- The host statements (R84). `bus` stands for `rd` and `wr` and for every other access to the register span
(R165). -/
inductive Stmt where
  | bus (a : BusAccess)
  | mwr (a : Word) (b : Byte)
  | mrd (a : Word) (t : Var)
  | bnz (t : Var) (mask : Word) (target : Label)
  | bz (t : Var) (mask : Word) (target : Label)
  | xmit (a : Word) (k : Nat) (mode : XmitMode)
  | xwait
  | settle
  deriving DecidableEq, Repr, Inhabited

/-- One line of a host program: a statement, with a label or without (R84). -/
structure Line where
  label : Option Label
  stmt : Stmt
  deriving DecidableEq, Repr, Inhabited

/-- A host program (R23, R84). -/
abbrev Program := List Line

/-- The pseudo-instructions (R85). `waitdone` carries its fresh label and variable, `checkok` its variable and
the error label. -/
inductive Pseudo where
  | encode3
  | encode4
  | buildframe3
  | buildframe4
  | buildsingle3
  | buildsingle4
  | ctrlset (op sch : BitVec 2)
  | setcolor (r g b : Byte)
  | waitdone (fresh : Label) (t : Var)
  | checkok (t : Var) (errorLabel : Label)
  deriving DecidableEq, Repr, Inhabited

end Sys2Proof
end

