-- ==== Sys2Proof/WellFormed.lean ====
section
/-! DEFINITION. Which instructions, statements and programs are well formed. -/

namespace Sys2Proof

/-- A write to CTRL is decoded by its data word into the rows below WR (opcode table; R73), so WR itself never
names CTRL. Every other instruction is well formed. -/
def Instr.wf : Instr → Bool
  | .wr r _ => r != .ctrl
  | _ => true

/-- A register access lies in the span (R87, R165), and a transfer lies in the address space (R50). -/
def Stmt.wf : Stmt → Bool
  | .bus a => decide (a.offset.toNat < Config.regSpan)
  | .xmit a k _ => decide (a.toNat + k ≤ Config.addrLimit)
  | _ => true

/-- The label a statement branches to (R168). -/
def Stmt.target? : Stmt → Option Label
  | .bnz _ _ l => some l
  | .bz _ _ l => some l
  | _ => none

/-- The labels a program defines, in the order of its lines. -/
def Program.labels (p : Program) : List Label := p.filterMap Line.label

/-- No label is defined twice, every branch target is defined, and every statement is well formed
(R84, R168). -/
def Program.wf (p : Program) : Bool :=
  decide p.labels.Nodup &&
    p.all fun l => l.stmt.wf && (match l.stmt.target? with
      | some t => p.labels.contains t
      | none => true)

end Sys2Proof
end

