-- ==== Sys2Proof/Decode.lean ====
section
/-! DEFINITION. Decoding a bus transaction into an instruction, total and rejecting by name, and the encoder
beside it (30_encoding.md R70 to R73, R82, R83, R86, R87; spec/opcode_table.json). -/

namespace Sys2Proof

/-- Why a transaction decodes to no instruction. -/
inductive DecodeError where
  /-- In the span, but not an aligned 32-bit access (R57, R165). -/
  | badRegAccess
  /-- Not in the span: no register access at all (R87). Log 16. -/
  | outsideSpan
  deriving DecidableEq, Repr, Inhabited

/-- The register's index `r`, with `offset = r << 2` (R24; opcode table). -/
def Reg.index : Reg → Nat
  | .ctrl => 0
  | .ledCount => 1
  | .color => 2
  | .srcAddr => 3
  | .dstAddr => 4
  | .dstCap => 5
  | .status => 6
  | .byteCount => 7

/-- The register of an index in 0..7 (R24). -/
def Reg.ofIndex : Nat → Reg
  | 0 => .ctrl
  | 1 => .ledCount
  | 2 => .color
  | 3 => .srcAddr
  | 4 => .dstAddr
  | 5 => .dstCap
  | 6 => .status
  | _ => .byteCount

/-- The register's byte offset from REG_BASE (R24). -/
def Reg.offset (r : Reg) : BitVec 8 := BitVec.ofNat 8 (4 * r.index)

/-! ### The fields of a CTRL word (R70) -/

/-- START, bit 31. -/
def ctrlStart (w : Word) : Bool := w.getLsbD 31

/-- Bits 30:4, ignored on a write. -/
def ctrlIgn (w : Word) : BitVec 27 := w.extractLsb' 4 27

/-- SCHEME, bits 3:2. -/
def ctrlScheme (w : Word) : BitVec 2 := w.extractLsb' 2 2

/-- OP, bits 1:0. -/
def ctrlOp (w : Word) : BitVec 2 := w.extractLsb' 0 2

/-- The CTRL word of its four fields (R70). -/
def ctrlWord (start : Bool) (ign : BitVec 27) (scheme op : BitVec 2) : Word :=
  BitVec.ofBool start ++ ign ++ scheme ++ op

/-- The START words of R73, in the order of the check of R207: OP first, then SCHEME. -/
def decodeStart (ign : BitVec 27) (scheme op : BitVec 2) : Instr :=
  if op = 3#2 then .reservedOp ign scheme
  else if scheme = 0#2 then
    if op = 0#2 then .encode3 ign else if op = 1#2 then .buildframe3 ign else .buildsingle3 ign
  else if scheme = 1#2 then
    if op = 0#2 then .encode4 ign else if op = 1#2 then .buildframe4 ign else .buildsingle4 ign
  else if scheme = 2#2 then
    if op = 0#2 then .reservedScheme8 ign
    else if op = 1#2 then .reservedScheme9 ign else .reservedSchemeA ign
  else
    if op = 0#2 then .reservedSchemeC ign
    else if op = 1#2 then .reservedSchemeD ign else .reservedSchemeE ign

/-- Decoding the data word of a CTRL write: total on every word (R73, R83). -/
def decodeCtrl (w : Word) : Instr :=
  if ctrlStart w then decodeStart (ctrlIgn w) (ctrlScheme w) (ctrlOp w)
  else .ctrlset (ctrlIgn w) (ctrlScheme w) (ctrlOp w)

/-- The register an in-span offset names: bits 4:2 (opcode table, rows RD and WR). -/
def offsetReg (offset : BitVec 8) : Reg := Reg.ofIndex (offset.extractLsb' 2 3).toNat

/-- Decoding a bus transaction (R57, R73, R87). -/
def decode (a : BusAccess) : Except DecodeError Instr :=
  if Config.regSpan ≤ a.offset.toNat then .error .outsideSpan
  else if a.width ≠ 4 ∨ a.offset.toNat % 4 ≠ 0 then .error .badRegAccess
  else match a.kind with
    | .read t => .ok (.rd (offsetReg a.offset) t)
    | .write d =>
      if offsetReg a.offset = .ctrl then .ok (decodeCtrl d) else .ok (.wr (offsetReg a.offset) d)

/-! ### The encoder -/

/-- The aligned 32-bit read of register `r` (R160). -/
def readAccess (r : Reg) (t : Var) : BusAccess := ⟨.read t, r.offset, 4⟩

/-- The aligned 32-bit write of `d` to register `r` (R161). -/
def writeAccess (r : Reg) (d : Word) : BusAccess := ⟨.write d, r.offset, 4⟩

/-- The START write with the given fields (R70, R73). -/
def startAccess (ign : BitVec 27) (scheme op : BitVec 2) : BusAccess :=
  writeAccess .ctrl (ctrlWord true ign scheme op)

/-- The bus transaction of an instruction, written from R24, R70 to R73 and R87. -/
def encode : Instr → BusAccess
  | .rd r t => readAccess r t
  | .wr r d => writeAccess r d
  | .ctrlset ign sch op => writeAccess .ctrl (ctrlWord false ign sch op)
  | .encode3 ign => startAccess ign 0b00#2 0b00#2
  | .encode4 ign => startAccess ign 0b01#2 0b00#2
  | .buildframe3 ign => startAccess ign 0b00#2 0b01#2
  | .buildframe4 ign => startAccess ign 0b01#2 0b01#2
  | .buildsingle3 ign => startAccess ign 0b00#2 0b10#2
  | .buildsingle4 ign => startAccess ign 0b01#2 0b10#2
  | .reservedOp ign sch => startAccess ign sch 0b11#2
  | .reservedScheme8 ign => startAccess ign 0b10#2 0b00#2
  | .reservedScheme9 ign => startAccess ign 0b10#2 0b01#2
  | .reservedSchemeA ign => startAccess ign 0b10#2 0b10#2
  | .reservedSchemeC ign => startAccess ign 0b11#2 0b00#2
  | .reservedSchemeD ign => startAccess ign 0b11#2 0b01#2
  | .reservedSchemeE ign => startAccess ign 0b11#2 0b10#2

/-! ### The opcode table's own numbering -/

/-- The transaction that the table's bits stand for: the 8 bits of a row of format bus_read or bus_write are an
offset, and are taken as a read into variable 0, since those bits do not hold the kind; the 32 bits of a
ctrl_word row are the data word of a write to CTRL. Log 13. -/
def tableAccess (nbits w : Nat) : Option BusAccess :=
  if nbits = 8 then some ⟨.read 0, BitVec.ofNat 8 w, 4⟩
  else if nbits = 32 then some (writeAccess .ctrl (BitVec.ofNat 32 w))
  else none

/-- The instruction the decoder reads from the table's bits `w`. -/
def decodeTableWord (nbits w : Nat) : Option Instr :=
  match tableAccess nbits w with
  | none => none
  | some a =>
    match decode a with
    | .ok i => some i
    | .error _ => none

end Sys2Proof
end

