-- ==== Sys2Proof/Machine/State.lean ====
section
/-! DEFINITION. The machine's state, all of it plain data: the block's registers (10_state.md R24 to R33, held by
field, since a reserved bit holds no state: R33, log 17), the state outside the block that the rules read (R37 to
R39, R23, R84), the transport's line (44_transport_boundary.md), and the model's own schedule and draw counter.
Also the reasons a step can stop, and the state right after reset (70_reset_and_hazards.md R230, R234). -/

namespace Sys2Proof.Machine

/-- The model faults of R212: uses the hardware does not define. They are recorded in the state; the rule that
raises each is named. -/
inductive ModelFault where
  /-- R165: a host access in the register span that is not an aligned 32-bit access. -/
  | badRegAccess
  /-- R52: a command that passed `check` has a source or destination byte with MemOK = false. -/
  | memNotAdmitted
  /-- R238: a command is accepted whose destination range meets a range in flight. -/
  | dstOwnedByTransport
  /-- R239: a transfer starts, while BUSY, over bytes of the running command's destination range. -/
  | transmitWhileBusy
  /-- R240: the host writes a byte in a range in flight. -/
  | ownedBufferWritten
  /-- R241: the host writes a byte of a running BUILDFRAME's source range. -/
  | srcWrittenWhileBusy
  /-- R242: the host writes a byte of the running command's destination range. -/
  | dstWrittenWhileBusy
  deriving DecidableEq, Repr, Inhabited

/-- Why the machine stops. -/
inductive Fault where
  /-- Raised by `step` in a state whose `faults` holds `f`: the run has no further meaning (R212, R213). Safe:
  the model stops. Log 5. -/
  | modelFault (f : ModelFault)
  /-- Raised by `xmit` when its range runs past the last address 0xFFFFFFFF (R50), where no such byte exists, and has
  not the hazard of R239. Safe. Log 11. -/
  | outsideAddressSpace
  deriving DecidableEq, Repr, Inhabited

/-- Why the model rejects a statement. -/
inductive Refusal where
  /-- An instruction that has no meaning yet; raised by `exec` alone. Safe. -/
  | notModelled (mnemonic : String)
  /-- Raised by `bnz` and `bz` on a host variable nothing has written (R84). Safe. -/
  | unwrittenVariable (t : Var)
  /-- Raised by `bnz` and `bz` on a label the program does not define (R168). Safe. Log 15. -/
  | undefinedLabel (l : Label)
  /-- Raised by a bus statement whose offset is not in the register span (R87). Safe. Log 16. -/
  | notARegister (offset : BitVec 8)
  deriving DecidableEq, Repr, Inhabited

/-- The command errors (R201). -/
inductive CmdError where
  | badOp
  | badScheme
  | addrRange
  | capacity
  | overlap
  deriving DecidableEq, Repr, Inhabited

/-- The three operations of a defined OP (R71). -/
inductive Op where
  | encode
  | buildFrame
  | buildSingle
  deriving DecidableEq, Repr, Inhabited

/-- The STATUS register by field (R31). -/
structure Status where
  busy : Bool
  done : Bool
  error : Bool
  ignored : Bool
  errCode : BitVec 3
  deriving DecidableEq, Repr, Inhabited

/-- The block's registers by field (R24 to R32). CTRL.START holds no state: it always reads 0 (R25). -/
structure Block where
  op : BitVec 2
  scheme : BitVec 2
  ledCount : BitVec 16
  color : Color
  srcAddr : Word
  dstAddr : Word
  dstCap : Word
  status : Status
  byteCount : Word
  deriving DecidableEq, Repr, Inhabited

/-- Memory as (address, byte) pairs, in the canonical form `Memory.wf` (Machine/Ops.lean). -/
abbrev Memory := List Host.Cell

/-- What an unlisted address reads as: 0x00. DESIGN CHOICE, log 1: R234 leaves the launch memory to the program's
start state; 95_test_vectors.md section 3 gives its programs this value. -/
def Memory.unlisted : Byte := 0x00#8

/-- The host variables that have been written, by rising name (R84). -/
abbrev Vars := List (Var × Word)

/-- What the data line has carried (R181, R189). -/
inductive LineEvent where
  /-- One transfer: the bits, first-sent first, and the bit clock they were sent at (R181, R188). -/
  | transfer (bits : List Bool) (clock : Nat)
  /-- The line stayed idle for this long (R189). -/
  | settle (duration : Nat)
  /-- The line was corrupted here (R192; 93 item 8). -/
  | glitch
  deriving DecidableEq, Repr, Inhabited

/-- The whole machine. -/
structure State where
  /-- The block's eight registers (R24). -/
  block : Block
  /-- System memory `Mem` (R37, R50). -/
  mem : Memory
  /-- `owned`: the ranges of the transfers in flight, oldest first, one entry for each transfer (R38, R182). Log 8. -/
  owned : List Range
  /-- `faults`: the recorded model faults, in the order of `ModelFault.all`, no repeats (R39). -/
  faults : List ModelFault
  /-- The host program (R23, R84). -/
  program : Program
  /-- `hpc`, the host's statement index (R23). -/
  hpc : Nat
  /-- The host variables written so far (R84). -/
  vars : Vars
  /-- What the data line has carried, oldest first (R181, R189). Log 9. -/
  line : List LineEvent
  /-- The transport's bit clock, set from outside (R188). Log 18. -/
  bitClock : Nat
  /-- The OPEN parameters (R7); no step writes them. Log 2. -/
  platform : Platform
  /-- MODEL'S OWN: the turns to come, next first (R11). Log 3. -/
  agenda : List Turn
  /-- MODEL'S OWN: how many free values have been drawn (R10). Log 4. -/
  draws : Nat
  deriving DecidableEq, Repr, Inhabited

/-- The registers after the block reset: every one reads 0x00000000 (R230). -/
def Block.reset : Block where
  op := 0b00#2
  scheme := 0b00#2
  ledCount := 0#16
  color := ⟨0x00#8, 0x00#8, 0x00#8⟩
  srcAddr := 0x00000000#32
  dstAddr := 0x00000000#32
  dstCap := 0x00000000#32
  status := ⟨false, false, false, false, 0#3⟩
  byteCount := 0x00000000#32

/-- The launch state of a model on platform `p`, with the program's start memory (R234). -/
def State.launch (p : Platform) (mem : Memory) (program : Program) : State where
  block := Block.reset
  mem := mem
  owned := []
  faults := []
  program := program
  hpc := 0
  vars := []
  line := []
  bitClock := 0
  platform := p
  agenda := []
  draws := 0

/-- The machine right after reset: the launch state of R234 with no program loaded and nothing listed in memory,
on the platform that no proof can see (log 1, 2, 14). -/
def State.reset : State := State.launch Config.platform [] []

end Sys2Proof.Machine
end

