-- ==== Sys2Proof/Machine/Ops.lean ====
section
/-! DEFINITION. The named operations over ranges, memory, host variables, faults, draws and the host's index,
and the one-field updates of State that every meaning is built from. The block takes no exception and returns
from none (60_exceptions.md R211): the shared operations in their place are recording a model fault
(`State.addFault`, R212) and, in Machine/Flags.lean, completing with a command error (R200). -/

namespace Sys2Proof

/-- Address `a` is in `[base, base + size)`. -/
abbrev Range.Contains (r : Range) (a : Nat) : Prop := r.base ≤ a ∧ a < r.base + r.size

/-- The two ranges share at least one byte (R204, R206, R238); an empty range shares none. -/
abbrev Range.Meets (r q : Range) : Prop :=
  0 < r.size ∧ 0 < q.size ∧ r.base < q.base + q.size ∧ q.base < r.base + r.size

/-- The register span `[REG_BASE, REG_BASE + 0x20)` (R61, R204). -/
def Platform.span (p : Platform) : Range := ⟨p.regBase.val, Config.regSpan⟩

/-- `MemOK(a)` (R52). -/
abbrev Platform.MemOK (p : Platform) (a : Nat) : Prop := ∃ r ∈ p.admitted, r.Contains a

/-- Every byte of the range has `MemOK = true` (R52, R141). -/
abbrev Platform.Admits (p : Platform) (r : Range) : Prop := ∀ i < r.size, p.MemOK (r.base + i)

end Sys2Proof

namespace Sys2Proof.Machine

/-! ### Memory (R37, R50) -/

/-- The canonical form: addresses strictly rising, inside the address space, and no byte listed that an unlisted
address reads as. -/
abbrev Memory.wf (m : Memory) : Prop :=
  m.Pairwise (fun c d => c.1 < d.1) ∧ ∀ c ∈ m, c.1 < Config.addrLimit ∧ c.2 ≠ Memory.unlisted

/-- One byte read, `MemRead(a, 1)` (R10). -/
def Memory.read : Memory → Nat → Byte
  | [], _ => Memory.unlisted
  | (a', b) :: m, a => if a = a' then b else Memory.read m a

/-- A cell put in front of `m`, or nothing where it holds what an unlisted address reads as. -/
def Memory.put (a : Nat) (b : Byte) (m : Memory) : Memory :=
  if b = Memory.unlisted then m else (a, b) :: m

/-- One byte write, `MemWrite(a, 1, b)` (R10), keeping the canonical form. -/
def Memory.write : Memory → Nat → Byte → Memory
  | [], a, b => Memory.put a b []
  | (a', b') :: m, a, b =>
    if a < a' then Memory.put a b ((a', b') :: m)
    else if a = a' then Memory.put a b m
    else (a', b') :: Memory.write m a b

/-- The `k` bytes from `a` on, lowest address first (R9, R53). -/
def Memory.readBytes (m : Memory) (a k : Nat) : List Byte :=
  (List.range k).map fun i => m.read (a + i)

/-- Writing `bs[k]` at `a + k` for each `k` (R53, R141). -/
def Memory.writeBytes (m : Memory) (a : Nat) : List Byte → Memory
  | [] => m
  | b :: bs => Memory.writeBytes (m.write a b) (a + 1) bs

/-! ### Host variables (R84) -/

/-- The value of a variable, or none where nothing has written it. -/
def Vars.get? : Vars → Var → Option Word
  | [], _ => none
  | (t', w) :: v, t => if t = t' then some w else Vars.get? v t

/-- Writing a variable, keeping the names rising. -/
def Vars.set : Vars → Var → Word → Vars
  | [], t, w => [(t, w)]
  | (t', w') :: v, t, w =>
    if t < t' then (t, w) :: (t', w') :: v
    else if t = t' then (t, w) :: v
    else (t', w') :: Vars.set v t w

/-! ### The recorded model faults (R39, R212) -/

/-- The seven fault names, in the order of R212. -/
def ModelFault.all : List ModelFault :=
  [.badRegAccess, .memNotAdmitted, .dstOwnedByTransport, .transmitWhileBusy, .ownedBufferWritten,
    .srcWrittenWhileBusy, .dstWrittenWhileBusy]

/-- The set with `f` added, as a list in the order of `ModelFault.all`, so that equal sets are equal lists. -/
def ModelFault.insert (f : ModelFault) (fs : List ModelFault) : List ModelFault :=
  ModelFault.all.filter fun g => g = f ∨ g ∈ fs

/-! ### One-field updates of the state -/

/-- The registers replaced. -/
def State.withBlock (s : State) (b : Block) : State := { s with block := b }

/-- The memory replaced. -/
def State.withMem (s : State) (m : Memory) : State := { s with mem := m }

/-- The transfers in flight replaced. -/
def State.withOwned (s : State) (o : List Range) : State := { s with owned := o }

/-- The recorded faults replaced. -/
def State.withFaults (s : State) (f : List ModelFault) : State := { s with faults := f }

/-- The host program replaced. -/
def State.withProgram (s : State) (p : Program) : State := { s with program := p }

/-- The host's index replaced. -/
def State.withHpc (s : State) (n : Nat) : State := { s with hpc := n }

/-- The host variables replaced. -/
def State.withVars (s : State) (v : Vars) : State := { s with vars := v }

/-- The line's history replaced. -/
def State.withLine (s : State) (l : List LineEvent) : State := { s with line := l }

/-- The transport's bit clock replaced. -/
def State.withBitClock (s : State) (f : Nat) : State := { s with bitClock := f }

/-- The turns to come replaced. -/
def State.withAgenda (s : State) (ts : List Turn) : State := { s with agenda := ts }

/-- The draw counter replaced. -/
def State.withDraws (s : State) (n : Nat) : State := { s with draws := n }

/-! ### Shared operations -/

/-- `fault F`: F is added to `faults`, and nothing removes it (R10, R39, R212). -/
def State.addFault (s : State) (f : ModelFault) : State := s.withFaults (ModelFault.insert f s.faults)

/-- `fault F` where a condition holds. -/
def State.faultIf (s : State) (p : Prop) [Decidable p] (f : ModelFault) : State :=
  if p then s.addFault f else s

/-- `hpc <- hpc + 1` (R23). -/
def State.advance (s : State) : State := s.withHpc (s.hpc + 1)

/-- `t <- w` for a host variable (R160, R167). -/
def State.setVar (s : State) (t : Var) (w : Word) : State := s.withVars (s.vars.set t w)

/-- The line carries one more event (R181, R189). -/
def State.emit (s : State) (e : LineEvent) : State := s.withLine (s.line ++ [e])

/-- The range meets a range in flight (R238). -/
abbrev State.Owns (s : State) (r : Range) : Prop := ∃ q ∈ s.owned, q.Meets r

/-! ### Turns (R11) -/

/-- Who takes the next step: the agenda's first entry, or a free value where it is empty. Log 3. -/
def State.nextTurn (s : State) : Turn :=
  match s.agenda with
  | t :: _ => t
  | [] => Config.freeTurn s.draws

/-- The state once that turn is taken off the agenda, or the free value is drawn. -/
def State.takeTurn (s : State) : State :=
  match s.agenda with
  | _ :: ts => s.withAgenda ts
  | [] => s.withDraws (s.draws + 1)

end Sys2Proof.Machine
end

