-- ==== Sys2Proof/Machine/Flags.lean ====
section
/-! DEFINITION. The STATUS register: its word, its error codes, and every way it changes. Only the command
lifecycle and the IGNORED rule write it (10_state.md R31, R34; 42_commands.md R140, R142; 43_register_access.md
R162; 60_exceptions.md R200, R201). -/

namespace Sys2Proof.Machine

/-- The code of ERR_CODE, 0 for NONE (R201). -/
def errorCode : Option CmdError → BitVec 3
  | none => 0#3
  | some .badOp => 1#3
  | some .badScheme => 2#3
  | some .addrRange => 3#3
  | some .capacity => 4#3
  | some .overlap => 5#3

/-- STATUS as a word: BUSY 0, DONE 1, ERROR 2, IGNORED 3, ERR_CODE 6:4, the rest 0 (R31). -/
def Status.word (t : Status) : Word :=
  0#25 ++ t.errCode ++ BitVec.ofBool t.ignored ++ BitVec.ofBool t.error ++ BitVec.ofBool t.done ++
    BitVec.ofBool t.busy

/-- STATUS after an acceptance (R140). -/
def Status.accepted : Status := ⟨true, false, false, false, 0#3⟩

/-- STATUS after a completion; IGNORED keeps its value (R142). -/
def Status.completed (t : Status) (err : Option CmdError) : Status :=
  ⟨false, true, err.isSome, t.ignored, errorCode err⟩

/-- `complete(err, count)`, the end of every core step that does not fault (R142, R200). -/
def State.complete (s : State) (err : Option CmdError) (count : Nat) : State :=
  s.withBlock { s.block with
    status := s.block.status.completed err
    byteCount := BitVec.ofNat 32 count }

/-- A register write while BUSY: IGNORED is set and nothing else changes (R162). -/
def State.ignoreWrite (s : State) : State :=
  s.withBlock { s.block with status := { s.block.status with ignored := true } }

end Sys2Proof.Machine
end

