-- ==== Sys2Proof/Machine/Operands.lean ====
section
/-! DEFINITION. The operands of a command (30_encoding.md R71, R72, R74 to R77; 20_memory.md R54), the check of
its operands (60_exceptions.md R207), and the registers as the host reads and writes them (10_state.md R24 to R33;
43_register_access.md R160, R161, R166). -/

namespace Sys2Proof

/-- The expansion factor (R2, R21). -/
def Scheme.factor : Scheme → Nat
  | .threeBit => 3
  | .fourBit => 4

/-- Bytes for one color: 9 or 12 (R7, R21). -/
def Scheme.bytesPerColor (s : Scheme) : Nat := 3 * s.factor

end Sys2Proof

namespace Sys2Proof.Machine

/-! ### The command word's selectors -/

/-- The operation OP selects; 0b11 is reserved (R71). -/
def opOf (op : BitVec 2) : Option Op :=
  if op = 0b00#2 then some .encode
  else if op = 0b01#2 then some .buildFrame
  else if op = 0b10#2 then some .buildSingle
  else none

/-- The scheme SCHEME selects; 0b10 and 0b11 are reserved (R72). -/
def schemeOf (scheme : BitVec 2) : Option Scheme :=
  if scheme = 0b00#2 then some .threeBit
  else if scheme = 0b01#2 then some .fourBit
  else none

/-- The command the registers select, where both selectors are defined (R140, R207). -/
def Block.command (b : Block) : Option (Op × Scheme) :=
  match opOf b.op, schemeOf b.scheme with
  | some o, some s => some (o, s)
  | _, _ => none

/-! ### Sizes and ranges, in exact naturals (R76, R77) -/

/-- `n`, the LED count zero-extended (R76). -/
def Block.count (b : Block) : Nat := b.ledCount.toNat

/-- `nbytes` (R77). -/
def nbytes : Op → Scheme → Nat → Nat
  | .encode, s, _ => s.bytesPerColor
  | .buildFrame, s, n => s.bytesPerColor * n
  | .buildSingle, s, n => s.bytesPerColor * n

/-- `srcbytes` (R77). -/
def srcbytes : Op → Nat → Nat
  | .encode, _ => 0
  | .buildFrame, n => 3 * n
  | .buildSingle, _ => 0

/-- `slotOffset(s, i)` (R77). -/
def slotOffset (s : Scheme) (i : Nat) : Nat := i * s.bytesPerColor

/-- The destination range `[dst, dst + nbytes)`, empty where a selector is reserved (R51, R140; log 12). -/
def Block.dstRange (b : Block) : Range :=
  match b.command with
  | some (o, s) => ⟨b.dstAddr.toNat, nbytes o s b.count⟩
  | none => ⟨b.dstAddr.toNat, 0⟩

/-- The source range `[src, src + srcbytes)`, empty where a selector is reserved (R51, R241; log 12). -/
def Block.srcRange (b : Block) : Range :=
  match b.command with
  | some (o, _) => ⟨b.srcAddr.toNat, srcbytes o b.count⟩
  | none => ⟨b.srcAddr.toNat, 0⟩

/-- `colorAt(i)`: three bytes red, green, blue at `src + 3i` (R54). -/
def colorAt (m : Memory) (src i : Nat) : Color :=
  ⟨m.read (src + 3 * i), m.read (src + 3 * i + 1), m.read (src + 3 * i + 2)⟩

/-- The color sequence of a BUILDFRAME (R54, R145). -/
def colorSeq (m : Memory) (src n : Nat) : List Color :=
  (List.range n).map (colorAt m src)

/-! ### The check and its priority (R207) -/

/-- A non-empty range that wraps past `2^32` or meets the register span (R204). -/
abbrev BadRange (span r : Range) : Prop :=
  0 < r.size ∧ (Config.addrLimit < r.base + r.size ∨ r.Meets span)

/-- `check`: the first error that applies, in the order of R207. -/
def check (span : Range) (b : Block) : Option CmdError :=
  if opOf b.op = none then some .badOp
  else if schemeOf b.scheme = none then some .badScheme
  else if BadRange span b.dstRange then some .addrRange
  else if BadRange span b.srcRange then some .addrRange
  else if b.dstCap.toNat < b.dstRange.size then some .capacity
  else if b.srcRange.Meets b.dstRange then some .overlap
  else none

/-! ### The registers as words -/

/-- CTRL as a word: SCHEME 3:2, OP 1:0, the rest and START read 0 (R25). -/
def Block.ctrlValue (b : Block) : Word := 0#28 ++ b.scheme ++ b.op

/-- COLOR as a word: RED 23:16, GREEN 15:8, BLUE 7:0, the rest 0 (R27). -/
def Block.colorValue (b : Block) : Word := 0x00#8 ++ b.color.red ++ b.color.green ++ b.color.blue

/-- `value(R)`: the register's word with reserved bits 0 and START 0 (R160). -/
def Block.value (b : Block) : Reg → Word
  | .ctrl => b.ctrlValue
  | .ledCount => b.ledCount.setWidth 32
  | .color => b.colorValue
  | .srcAddr => b.srcAddr
  | .dstAddr => b.dstAddr
  | .dstCap => b.dstCap
  | .status => b.status.word
  | .byteCount => b.byteCount

/-- The color fields of a word (R27, R75). -/
def colorOfWord (w : Word) : Color :=
  ⟨w.extractLsb' 16 8, w.extractLsb' 8 8, w.extractLsb' 0 8⟩

/-- An idle write to a register other than CTRL: the bits outside WMASK are dropped, and the read-only registers
keep their values (R161, R166). A write to CTRL is `State.writeCtrl` (Machine/Commands.lean). -/
def Block.store (b : Block) (w : Word) : Reg → Block
  | .ctrl => b
  | .ledCount => { b with ledCount := w.setWidth 16 }
  | .color => { b with color := colorOfWord w }
  | .srcAddr => { b with srcAddr := w }
  | .dstAddr => { b with dstAddr := w }
  | .dstCap => { b with dstCap := w }
  | .status => b
  | .byteCount => b

end Sys2Proof.Machine
end

