-- ==== Sys2Proof/Machine/Encoder.lean ====
section
/-! DEFINITION. The bit encoder (40_bit_encoder.md): the channel and color encoders R100, R102, R105, their closed
forms R101, R103, and the inverses R108, R109. -/

namespace Sys2Proof.Machine

/-! ### ThreeBit -/

/-- The skeleton `0x92 0x49 0x24`, seeded first (R78, R100). -/
def skeleton3 : List Byte := [0x92#8, 0x49#8, 0x24#8]

/-- PERM3: (source bit, byte index, bit mask) (R100). -/
def perm3 : List (Nat × Nat × Byte) :=
  [(7, 0, 0x40#8), (6, 0, 0x08#8), (5, 0, 0x01#8), (4, 1, 0x20#8), (3, 1, 0x04#8),
    (2, 2, 0x80#8), (1, 2, 0x10#8), (0, 2, 0x02#8)]

/-- One row of PERM3: the source bit OR-ed into its slot (R100). -/
def perm3Step (v : Byte) (o : List Byte) (row : Nat × Nat × Byte) : List Byte :=
  if v.getLsbD row.1 then o.modify row.2.1 (· ||| row.2.2) else o

/-- `chan3(v)` (R100). -/
def chan3 (v : Byte) : List Byte := perm3.foldl (perm3Step v) skeleton3

/-- `w24(v)`, the closed form's word (R101). -/
def w24 (v : Byte) : BitVec 24 :=
  (List.range 8).foldl
    (fun w j => w ||| ((BitVec.ofBool (v.getLsbD j)).setWidth 24 <<< (3 * j + 1))) 0x924924#24

/-- The closed form of `chan3` (R101). -/
def chan3Closed (v : Byte) : List Byte :=
  [(w24 v).extractLsb' 16 8, (w24 v).extractLsb' 8 8, (w24 v).extractLsb' 0 8]

/-- `dec3(o)`, the inverse of the permutation (R108). -/
def dec3 (o : List Byte) : Byte :=
  perm3.foldl
    (fun w row =>
      w ||| ((if o.getD row.2.1 0x00#8 &&& row.2.2 ≠ 0x00#8 then 0x01#8 else 0x00#8) <<< row.1)) 0x00#8

/-! ### FourBit -/

/-- LUT4 (R102). -/
def lut4 (g : BitVec 2) : Byte :=
  if g = 0b00#2 then 0x88#8
  else if g = 0b01#2 then 0x8E#8
  else if g = 0b10#2 then 0xE8#8
  else 0xEE#8

/-- `chan4(v)`: the 2-bit groups, most significant first (R102). -/
def chan4 (v : Byte) : List Byte :=
  (List.range 4).map fun k => lut4 (v.extractLsb' (6 - 2 * k) 2)

/-- `w32(v)`, the closed form's word (R103). -/
def w32 (v : Byte) : Word :=
  (List.range 8).foldl
    (fun w j => w ||| ((if v.getLsbD j then 0xE#32 else 0x8#32) <<< (4 * j))) 0#32

/-- The closed form of `chan4` (R103). -/
def chan4Closed (v : Byte) : List Byte :=
  [(w32 v).extractLsb' 24 8, (w32 v).extractLsb' 16 8, (w32 v).extractLsb' 8 8, (w32 v).extractLsb' 0 8]

/-- `idx`, the inverse of LUT4, defined on its four values alone (R109). -/
def idx4 (b : Byte) : Option (BitVec 2) :=
  if b = 0x88#8 then some 0b00#2
  else if b = 0x8E#8 then some 0b01#2
  else if b = 0xE8#8 then some 0b10#2
  else if b = 0xEE#8 then some 0b11#2
  else none

/-- `dec4(o)`, where every byte is a value of LUT4 (R109). -/
def dec4 : List Byte → Option Byte
  | [b0, b1, b2, b3] =>
    match idx4 b0, idx4 b1, idx4 b2, idx4 b3 with
    | some g0, some g1, some g2, some g3 => some (g0 ++ g1 ++ g2 ++ g3)
    | _, _, _, _ => none
  | _ => none

/-! ### Colors -/

/-- `chan(s, v)` (R105). -/
def chan : Scheme → Byte → List Byte
  | .threeBit, v => chan3 v
  | .fourBit, v => chan4 v

/-- `grb(c)`, the channels in wire order (R104). -/
def grb (c : Color) : List Byte := [c.green, c.red, c.blue]

/-- `encodeColor(s, c)` (R105). -/
def encodeColor (s : Scheme) (c : Color) : List Byte := (grb c).flatMap (chan s)

/-- The channel byte of one encoded group (R108, R109). -/
def decChan : Scheme → List Byte → Option Byte
  | .threeBit, o => some (dec3 o)
  | .fourBit, o => dec4 o

/-- The color of an encoded slot, group by group in GRB order (R108, R109). -/
def decodeColor (s : Scheme) (o : List Byte) : Option Color :=
  match decChan s (o.take s.factor), decChan s ((o.drop s.factor).take s.factor),
      decChan s ((o.drop (2 * s.factor)).take s.factor) with
  | some g, some r, some b => some ⟨r, g, b⟩
  | _, _, _ => none

end Sys2Proof.Machine
end

