-- ==== Sys2Proof/Machine/Frame.lean ====
section
/-! DEFINITION. The frame buffer builder (41_frame_builder.md R120, R121) and the bodies of the six commands
(42_commands.md R143 to R148). -/

namespace Sys2Proof.Machine

/-- `frame(s, colors, n)`: the encodings of the first `n` colors, end to end (R120). -/
def frame (s : Scheme) (colors : List Color) (n : Nat) : List Byte :=
  (colors.take n).flatMap (encodeColor s)

/-- `frameSingle(s, c, n) = repeat(n, encodeColor(s, c))` (R121). -/
def frameSingle (s : Scheme) (c : Color) (n : Nat) : List Byte :=
  (List.replicate n (encodeColor s c)).flatten

/-- `body(ENCODE, ThreeBit)` (R143). -/
def bodyEncode3 (b : Block) (_m : Memory) : List Byte := encodeColor .threeBit b.color

/-- `body(ENCODE, FourBit)` (R144). -/
def bodyEncode4 (b : Block) (_m : Memory) : List Byte := encodeColor .fourBit b.color

/-- `body(BUILDFRAME, ThreeBit)` (R145). -/
def bodyBuildframe3 (b : Block) (m : Memory) : List Byte :=
  frame .threeBit (colorSeq m b.srcAddr.toNat b.count) b.count

/-- `body(BUILDFRAME, FourBit)` (R146). -/
def bodyBuildframe4 (b : Block) (m : Memory) : List Byte :=
  frame .fourBit (colorSeq m b.srcAddr.toNat b.count) b.count

/-- `body(BUILDSINGLE, ThreeBit)` (R147). -/
def bodyBuildsingle3 (b : Block) (_m : Memory) : List Byte := frameSingle .threeBit b.color b.count

/-- `body(BUILDSINGLE, FourBit)` (R148). -/
def bodyBuildsingle4 (b : Block) (_m : Memory) : List Byte := frameSingle .fourBit b.color b.count

/-- `body(op, s)` of the command in the registers, the empty list where a selector is reserved (R141). -/
def body (b : Block) (m : Memory) : List Byte :=
  match b.command with
  | some (.encode, .threeBit) => bodyEncode3 b m
  | some (.encode, .fourBit) => bodyEncode4 b m
  | some (.buildFrame, .threeBit) => bodyBuildframe3 b m
  | some (.buildFrame, .fourBit) => bodyBuildframe4 b m
  | some (.buildSingle, .threeBit) => bodyBuildsingle3 b m
  | some (.buildSingle, .fourBit) => bodyBuildsingle4 b m
  | none => []

/-- The bytes the running command writes: its body where `check` finds no error, and nothing otherwise
(R141, R208). -/
def State.pending (s : State) : List Byte :=
  if check s.platform.span s.block = none then body s.block s.mem else []

end Sys2Proof.Machine
end

