-- ==== Sys2Proof/Machine/Commands.lean ====
section
/-! DEFINITION. Starting a command: the acceptance of a START write (42_commands.md R140; 43_register_access.md
R162, R164), one meaning for each START row of the opcode table (R143 to R150), and the core's step, which checks,
computes, writes and completes (R141). -/

namespace Sys2Proof.Machine

/-- The registers once OP and SCHEME are written (R140, R163). -/
def Block.withSelectors (b : Block) (scheme op : BitVec 2) : Block := { b with op := op, scheme := scheme }

/-- The acceptance of R140: the selectors are set, `fault DstOwnedByTransport` is recorded where the destination
range meets a range in flight (R238), and STATUS and BYTE_COUNT start the BUSY window. -/
def State.accept (s : State) (scheme op : BitVec 2) : State :=
  let b := s.block.withSelectors scheme op
  (s.withBlock { b with status := Status.accepted, byteCount := 0#32 }).faultIf
    (s.Owns b.dstRange) .dstOwnedByTransport

/-- A START write with the given fields, and the host's advance: accepted while idle (R164), ignored while BUSY
(R162). -/
def startCommand (scheme op : BitVec 2) (s : State) : Host.Outcome State Fault Refusal :=
  .next (if s.block.status.busy then s.ignoreWrite else s.accept scheme op).advance

/-- ENCODE.3 (R143). -/
def execEncode3 (_ign : BitVec 27) (s : State) : Host.Outcome State Fault Refusal :=
  startCommand 0b00#2 0b00#2 s

/-- ENCODE.4 (R144). -/
def execEncode4 (_ign : BitVec 27) (s : State) : Host.Outcome State Fault Refusal :=
  startCommand 0b01#2 0b00#2 s

/-- BUILDFRAME.3 (R145). -/
def execBuildframe3 (_ign : BitVec 27) (s : State) : Host.Outcome State Fault Refusal :=
  startCommand 0b00#2 0b01#2 s

/-- BUILDFRAME.4 (R146). -/
def execBuildframe4 (_ign : BitVec 27) (s : State) : Host.Outcome State Fault Refusal :=
  startCommand 0b01#2 0b01#2 s

/-- BUILDSINGLE.3 (R147). -/
def execBuildsingle3 (_ign : BitVec 27) (s : State) : Host.Outcome State Fault Refusal :=
  startCommand 0b00#2 0b10#2 s

/-- BUILDSINGLE.4 (R148). -/
def execBuildsingle4 (_ign : BitVec 27) (s : State) : Host.Outcome State Fault Refusal :=
  startCommand 0b01#2 0b10#2 s

/-- RESERVED_OP: accepted like any command (R149). -/
def execReservedOp (_ign : BitVec 27) (scheme : BitVec 2) (s : State) : Host.Outcome State Fault Refusal :=
  startCommand scheme 0b11#2 s

/-- RESERVED_SCHEME, SCHEME 0b10 with ENCODE: accepted like any command (R150). -/
def execReservedScheme8 (_ign : BitVec 27) (s : State) : Host.Outcome State Fault Refusal :=
  startCommand 0b10#2 0b00#2 s

/-- RESERVED_SCHEME, SCHEME 0b10 with BUILDFRAME (R150). -/
def execReservedScheme9 (_ign : BitVec 27) (s : State) : Host.Outcome State Fault Refusal :=
  startCommand 0b10#2 0b01#2 s

/-- RESERVED_SCHEME, SCHEME 0b10 with BUILDSINGLE (R150). -/
def execReservedSchemeA (_ign : BitVec 27) (s : State) : Host.Outcome State Fault Refusal :=
  startCommand 0b10#2 0b10#2 s

/-- RESERVED_SCHEME, SCHEME 0b11 with ENCODE (R150). -/
def execReservedSchemeC (_ign : BitVec 27) (s : State) : Host.Outcome State Fault Refusal :=
  startCommand 0b11#2 0b00#2 s

/-- RESERVED_SCHEME, SCHEME 0b11 with BUILDFRAME (R150). -/
def execReservedSchemeD (_ign : BitVec 27) (s : State) : Host.Outcome State Fault Refusal :=
  startCommand 0b11#2 0b01#2 s

/-- RESERVED_SCHEME, SCHEME 0b11 with BUILDSINGLE (R150). -/
def execReservedSchemeE (_ign : BitVec 27) (s : State) : Host.Outcome State Fault Refusal :=
  startCommand 0b11#2 0b10#2 s

/-- The core's step (R141), taken as one transition: enabled while BUSY. An error completes with no memory access
(R208); a range that is not admitted records MemNotAdmitted and goes no further (R52, log 5); otherwise the body is
written at the destination and the command completes. -/
def coreStep (s : State) : State :=
  if s.block.status.busy then
    match check s.platform.span s.block with
    | some e => s.complete (some e) 0
    | none =>
      if s.platform.Admits s.block.srcRange ∧ s.platform.Admits s.block.dstRange then
        (s.withMem (s.mem.writeBytes s.block.dstAddr.toNat (body s.block s.mem))).complete none
          (body s.block s.mem).length
      else s.addFault .memNotAdmitted
  else s

end Sys2Proof.Machine
end

