-- ==== Sys2Proof/Machine/RegisterAccess.lean ====
section
/-! DEFINITION. The host's register accesses (43_register_access.md R160 to R166): the rows RD, WR and CTRLSET, and
the access that is none of them. -/

namespace Sys2Proof.Machine

/-- An idle write to CTRL of a word with START = 0: OP and SCHEME only (R83, R163). -/
def State.setSelectors (s : State) (scheme op : BitVec 2) : State :=
  s.withBlock (s.block.withSelectors scheme op)

/-- An idle write to CTRL (R163, R164). -/
def State.writeCtrl (s : State) (w : Word) : State :=
  if ctrlStart w then s.accept (ctrlScheme w) (ctrlOp w) else s.setSelectors (ctrlScheme w) (ctrlOp w)

/-- A write of a register: ignored while BUSY (R162), else by register (R161, R163, R164, R166). -/
def State.writeReg (s : State) (r : Reg) (w : Word) : State :=
  if s.block.status.busy then s.ignoreWrite
  else if r = .ctrl then s.writeCtrl w
  else s.withBlock (s.block.store w r)

/-- RD (R160). -/
def execRd (r : Reg) (t : Var) (s : State) : Host.Outcome State Fault Refusal :=
  .next (s.setVar t (s.block.value r)).advance

/-- WR (R161, R162, R166); a term that names CTRL, which is not well formed, does what the write does (R73). -/
def execWr (r : Reg) (data : Word) (s : State) : Host.Outcome State Fault Refusal :=
  .next (s.writeReg r data).advance

/-- CTRLSET (R83, R163; while BUSY R162). -/
def execCtrlset (_ign : BitVec 27) (scheme op : BitVec 2) (s : State) : Host.Outcome State Fault Refusal :=
  .next (if s.block.status.busy then s.ignoreWrite else s.setSelectors scheme op).advance

/-- An access in the span that is not an aligned 32-bit access: the fault is recorded, no register and no variable
changes (R165), and the host goes on to its next statement (R23, log 6). -/
def State.badAccess (s : State) : State := (s.addFault .badRegAccess).advance

end Sys2Proof.Machine
end

