-- ==== Sys2Proof/Machine/Dispatch.lean ====
section
/-! DEFINITION. The one dispatch from an instruction to its meaning. -/

namespace Sys2Proof.Machine

def exec (i : Instr) (s : State) : Host.Outcome State Fault Refusal :=
  match i with
  | .rd r t => Sys2Proof.Machine.execRd r t s
  | .wr r data => Sys2Proof.Machine.execWr r data s
  | .ctrlset ign scheme op => Sys2Proof.Machine.execCtrlset ign scheme op s
  | .encode3 ign => Sys2Proof.Machine.execEncode3 ign s
  | .encode4 ign => Sys2Proof.Machine.execEncode4 ign s
  | .buildframe3 ign => Sys2Proof.Machine.execBuildframe3 ign s
  | .buildframe4 ign => Sys2Proof.Machine.execBuildframe4 ign s
  | .buildsingle3 ign => Sys2Proof.Machine.execBuildsingle3 ign s
  | .buildsingle4 ign => Sys2Proof.Machine.execBuildsingle4 ign s
  | .reservedOp ign scheme => Sys2Proof.Machine.execReservedOp ign scheme s
  | .reservedScheme8 ign => Sys2Proof.Machine.execReservedScheme8 ign s
  | .reservedScheme9 ign => Sys2Proof.Machine.execReservedScheme9 ign s
  | .reservedSchemeA ign => Sys2Proof.Machine.execReservedSchemeA ign s
  | .reservedSchemeC ign => Sys2Proof.Machine.execReservedSchemeC ign s
  | .reservedSchemeD ign => Sys2Proof.Machine.execReservedSchemeD ign s
  | .reservedSchemeE ign => Sys2Proof.Machine.execReservedSchemeE ign s

end Sys2Proof.Machine
end

