-- ==== Sys2Proof/Machine/Transport.lean ====
section
/-! DEFINITION. The transport boundary (44_transport_boundary.md R180 to R189): wire serialisation, the host
statements `xmit`, `xwait` and `settle`, the transport's completion step, the bit clock's setting, and a glitch (R192). -/

namespace Sys2Proof.Machine

/-- `bits(b)`: the 8 bits of a byte, bit 7 first (R8, R9, R53). -/
def bitsOf (b : Byte) : List Bool := (List.range 8).map fun i => b.getLsbD (7 - i)

/-- `wire(bs)`: each byte MSB first, in ascending address order, nothing added between bytes (R181). -/
def wire (bs : List Byte) : List Bool := bs.flatMap bitsOf

/-- The transfer itself: the line carries the bytes that are in memory at its start (R181, R182), and an
asynchronous transfer owns its range from now on (R184). A synchronous one has ended when the host's step ends
(R183), and one of no bytes emits nothing and owns nothing (R182). Log 8, 9. DESIGN CHOICE, log 26: beside the fault
TransmitWhileBusy of R239, a transfer over a running command's destination sends the bytes that are in memory at its
start, each one the old byte, though R59 calls such an access a draw of old or new. -/
def State.transmit (s : State) (a k : Nat) (mode : XmitMode) : State :=
  if k = 0 then s
  else
    let s' := s.emit (.transfer (wire (s.mem.readBytes a k)) s.bitClock)
    match mode with
    | .sync => s'
    | .async => s'.withOwned (s'.owned ++ [⟨a, k⟩])

/-- The hazard of R239: a command runs, and the range `[a, a+k)` that a transfer is asked for shares a byte with its
destination (so `k > 0`). -/
abbrev State.TransmitHazard (s : State) (a k : Nat) : Prop :=
  s.block.status.busy = true ∧ (Range.mk a k).Meets s.block.dstRange

/-- `xmit a, k, mode` (R180; the hazard TransmitWhileBusy is R239). A range that runs past the last address faults (R50,
log 11). DESIGN CHOICE, log 11: where such a range also has the hazard of R239, TransmitWhileBusy is recorded in place
of that stop, with nothing sent and nothing put in flight. -/
def execXmit (a : Word) (k : Nat) (mode : XmitMode) (s : State) : Host.Outcome State Fault Refusal :=
  if Config.addrLimit < a.toNat + k then
    if s.TransmitHazard a.toNat k then .next (s.addFault .transmitWhileBusy).advance
    else .fault .outsideAddressSpace
  else
    .next (((s.faultIf (s.TransmitHazard a.toNat k) .transmitWhileBusy).transmit a.toNat k mode).advance)

/-- `xwait`: the host is held until no asynchronous transfer is in flight (R184). -/
def execXwait (s : State) : Host.Outcome State Fault Refusal :=
  if s.owned = [] then .next s.advance else .next s

/-- `settle`: `T_SETTLE` elapses with the line idle, behind every transfer started so far (R84, R189). It goes on
whether or not a transfer is in flight: it is no point of synchronisation, and only `xwait` observes a completion (R67,
R184). Log 10. -/
def execSettle (s : State) : Host.Outcome State Fault Refusal :=
  .next (s.emit (.settle s.platform.tSettle)).advance

/-- The transport's completion of its `k`-th transfer in flight: its range leaves `owned` (R184). It has no step
where there is no such transfer. -/
def transportStep (k : Nat) (s : State) : State := s.withOwned (s.owned.eraseIdx k)

/-- The hardware-configuration collaborator sets the transport's bit clock (R188, R235). Log 18. -/
def setClock (f : Nat) (s : State) : State := s.withBitClock f

/-- A glitch on the line, which nothing detects: it can only be seen on the strip (R192; 93 item 8). Log 19. -/
def lineGlitch (s : State) : State := s.emit .glitch

end Sys2Proof.Machine
end

