-- ==== Sys2Proof/Machine/HostStep.lean ====
section
/-! DEFINITION. The host: its memory and branch statements (43_register_access.md R167, R168), the statement at
`hpc` (10_state.md R23), the pseudo-instructions' expansions (30_encoding.md R85), and how a statement is placed
where the host runs next. -/

namespace Sys2Proof.Machine

/-! ### Memory statements -/

/-- The hazard checks of a host write to `a` (R167): OwnedBufferWritten (R240), SrcWrittenWhileBusy (R241) and
DstWrittenWhileBusy (R242), each recorded where its rule says. -/
def State.writeHazards (s : State) (a : Nat) : State :=
  ((s.faultIf (∃ q ∈ s.owned, q.Contains a) .ownedBufferWritten).faultIf
      (s.block.status.busy = true ∧ s.block.srcRange.Contains a) .srcWrittenWhileBusy).faultIf
      (s.block.status.busy = true ∧ s.block.dstRange.Contains a) .dstWrittenWhileBusy

/-- `Mem[a] <- b` with the hazard checks before it (R167). -/
def State.hostWrite (s : State) (a : Nat) (b : Byte) : State :=
  (s.writeHazards a).withMem (s.mem.write a b)

/-- `mwr a, b` (R167). A byte access in the register span is a bad register access and writes no memory (R57, R165,
log 7). DESIGN CHOICE, log 7: where such an address also lies in an owned range or in the running command's source or
destination range, BadRegAccess and every hazard whose rule applies (R240 to R242) are recorded together. -/
def execMwr (a : Word) (b : Byte) (s : State) : Host.Outcome State Fault Refusal :=
  if s.platform.span.Contains a.toNat then .next (s.writeHazards a.toNat).badAccess
  else .next (s.hostWrite a.toNat b).advance

/-- The value the running command writes at `a`, or the byte that is there where it writes none (R243, log 12). DESIGN
CHOICE, log 12: where the command passes its check but some byte of its ranges has MemOK = false, so that its own step
would record MemNotAdmitted (R52), the new value is still the body's byte. -/
def State.newByte (s : State) (a : Nat) : Byte :=
  (s.pending[a - s.block.dstAddr.toNat]?).getD (s.mem.read a)

/-- `mrd a -> t` (R167): while BUSY, a byte of the destination range is a draw of its old or its new value (R243).
A byte access in the register span is a bad register access (R57, R165, log 7). -/
def execMrd (a : Word) (t : Var) (s : State) : Host.Outcome State Fault Refusal :=
  if s.platform.span.Contains a.toNat then .next s.badAccess
  else if s.block.status.busy = true ∧ s.block.dstRange.Contains a.toNat then
    .next (((s.withDraws (s.draws + 1)).setVar t
      ((if Config.freeBit s.draws then s.newByte a.toNat else s.mem.read a.toNat).setWidth 32)).advance)
  else .next ((s.setVar t ((s.mem.read a.toNat).setWidth 32)).advance)

/-! ### Branches -/

/-- The index of the first line with the label (R168). -/
def labelIndex (l : Label) (p : Program) : Option Nat := p.findIdx? fun line => line.label = some l

/-- A branch taken where `taken` holds of `t & mask` (R168). An unwritten variable (R84) and an undefined label (R168,
log 15) are refused. -/
def branch (t : Var) (mask : Word) (l : Label) (taken : Word → Bool) (s : State) :
    Host.Outcome State Fault Refusal :=
  match s.vars.get? t, labelIndex l s.program with
  | none, _ => .refused (.unwrittenVariable t)
  | some _, none => .refused (.undefinedLabel l)
  | some w, some n => .next (if taken (w &&& mask) then s.withHpc n else s.advance)

/-- `bnz t, mask, label` (R168). -/
def execBnz (t : Var) (mask : Word) (l : Label) (s : State) : Host.Outcome State Fault Refusal :=
  branch t mask l (fun w => w != 0#32) s

/-- `bz t, mask, label` (R168). -/
def execBz (t : Var) (mask : Word) (l : Label) (s : State) : Host.Outcome State Fault Refusal :=
  branch t mask l (fun w => w == 0#32) s

/-! ### The statement at `hpc` -/

/-- A bus statement: the instruction it decodes to, or the fault of R165, or the refusal of an access that is no
register access (log 16). -/
def execBus (a : BusAccess) (s : State) : Host.Outcome State Fault Refusal :=
  match decode a with
  | .ok i => exec i s
  | .error .badRegAccess => .next s.badAccess
  | .error .outsideSpan => .refused (.notARegister a.offset)

/-- The meaning of a host statement (R84). -/
def execStmt : Stmt → State → Host.Outcome State Fault Refusal
  | .bus a, s => execBus a s
  | .mwr a b, s => execMwr a b s
  | .mrd a t, s => execMrd a t s
  | .bnz t mask l, s => execBnz t mask l s
  | .bz t mask l, s => execBz t mask l s
  | .xmit a k mode, s => execXmit a k mode s
  | .xwait, s => execXwait s
  | .settle, s => execSettle s

/-- The host's step: the statement at `hpc`; past the program's end it has none left to run (R23, R169). Log 3. -/
def hostStep (s : State) : Host.Outcome State Fault Refusal :=
  match s.program[s.hpc]? with
  | some line => execStmt line.stmt s
  | none => .next s

/-! ### Statements in the host's syntax (R84, R85) -/

/-- `rd R -> t`. -/
def stmtRd (r : Reg) (t : Var) : Stmt := .bus (readAccess r t)

/-- `wr R, imm`. -/
def stmtWr (r : Reg) (imm : Word) : Stmt := .bus (writeAccess r imm)

/-- The expansion of a pseudo-instruction (R85). -/
def expandPseudo : Pseudo → Program
  | .encode3 => [⟨none, stmtWr .ctrl 0x80000000#32⟩]
  | .encode4 => [⟨none, stmtWr .ctrl 0x80000004#32⟩]
  | .buildframe3 => [⟨none, stmtWr .ctrl 0x80000001#32⟩]
  | .buildframe4 => [⟨none, stmtWr .ctrl 0x80000005#32⟩]
  | .buildsingle3 => [⟨none, stmtWr .ctrl 0x80000002#32⟩]
  | .buildsingle4 => [⟨none, stmtWr .ctrl 0x80000006#32⟩]
  | .ctrlset op sch => [⟨none, stmtWr .ctrl ((sch.setWidth 32 <<< 2) ||| op.setWidth 32)⟩]
  | .setcolor r g b =>
    [⟨none, stmtWr .color ((r.setWidth 32 <<< 16) ||| (g.setWidth 32 <<< 8) ||| b.setWidth 32)⟩]
  | .waitdone fresh t => [⟨some fresh, stmtRd .status t⟩, ⟨none, .bnz t 0x1#32 fresh⟩]
  | .checkok t errorLabel => [⟨none, stmtRd .status t⟩, ⟨none, .bnz t 0x4#32 errorLabel⟩]

/-! ### Placing a statement where the host runs next -/

/-- The program with statement `st` at index `n`, its label kept; a shorter program is filled up to there. -/
def placeStmt (p : Program) (n : Nat) (st : Stmt) : Program :=
  (p ++ List.replicate (n + 1 - p.length) (Line.mk none .xwait)).modify n fun line => { line with stmt := st }

/-- The state whose next step is the host's, and whose statement there is the transaction `a`. Log 14. -/
def State.withFetchAccess (s : State) (a : BusAccess) : State :=
  (s.withProgram (placeStmt s.program s.hpc (.bus a))).withAgenda (.host :: s.agenda)

end Sys2Proof.Machine
end

