-- ==== Sys2Proof/Machine/Reset.lean ====
section
/-! DEFINITION. The block reset input (70_reset_and_hazards.md R230 to R233). -/

namespace Sys2Proof.Machine

/-- The destination bytes a reset leaves where it abandons a running command: each one, independently, its old value
or the value the command would have written, a draw per byte (R232); no byte while idle. Log 20. -/
def State.torn (s : State) : List Byte :=
  if s.block.status.busy then
    s.pending.mapIdx fun i b =>
      if Config.freeBit (s.draws + i) then b else s.mem.read (s.block.dstAddr.toNat + i)
  else []

/-- The block reset: every register at its reset value (R230); `owned`, `faults`, the host and, while idle, the
memory are not touched (R231); a running command is abandoned (R232). -/
def blockReset (s : State) : State :=
  ((s.withMem (s.mem.writeBytes s.block.dstAddr.toNat s.torn)).withDraws
    (s.draws + s.torn.length)).withBlock Block.reset

end Sys2Proof.Machine
end

