-- ==== Sys2Proof/Machine/Step.lean ====
section
/-! DEFINITION. One step of the whole machine: the agent or input whose turn it is (00_scope.md R11) does its
step. -/

namespace Sys2Proof.Machine

/-- The step of the agent, or the input, that `t` names. -/
def turnStep (t : Turn) (s : State) : Host.Outcome State Fault Refusal :=
  match t with
  | .host => hostStep s
  | .core => .next (coreStep s)
  | .transport k => .next (transportStep k s)
  | .reset => .next (blockReset s)
  | .setClock f => .next (setClock f s)
  | .glitch => .next (lineGlitch s)

/-- One step. A state with a recorded model fault has no further meaning (R213): the machine stops there. -/
def step (s : State) : Host.Outcome State Fault Refusal :=
  match s.faults with
  | f :: _ => .fault (.modelFault f)
  | [] => turnStep s.nextTurn s.takeTurn

/-- `s` with the opcode table's bits `w` as the statement the host runs in the very next step. Log 13, 14. -/
def State.withFetchWord (s : State) (nbits w : Nat) : State :=
  match tableAccess nbits w with
  | some a => s.withFetchAccess a
  | none => s

end Sys2Proof.Machine
end

