-- ==== Sys2Proof/Machine/Strip.lean ====
section
/-! DEFINITION. What the strip sees of the line (44_transport_boundary.md R188 to R192; 40_bit_encoder.md R113,
R114): an observation of State, not a part of it. Wire decoding follows R191; the display follows R190, under the
premises of R169, R188 and R114, and is a free value without them. Log 19, 25. -/

namespace Sys2Proof

/-- `F_BIT(s)` (R188). -/
def Platform.fBit (p : Platform) : Scheme → Nat
  | .threeBit => p.fBit3
  | .fourBit => p.fBit4

/-- `clockMatches(s)` for one transfer's clock (R188). -/
abbrev Platform.ClockMatches (p : Platform) (s : Scheme) (clock : Nat) : Prop := clock = p.fBit s

/-- The premise on the scheme's own timing: FourBit is unverified (R114, 93 item 6). -/
def Platform.timingOK (p : Platform) : Scheme → Bool
  | .threeBit => true
  | .fourBit => p.fourBitTimingOK

end Sys2Proof

namespace Sys2Proof.Machine

/-- Cutting a ThreeBit wire into groups `1 x 0`; `x` is the bit (R113, R191). -/
def cut3 : List Bool → Option (List Bool)
  | [] => some []
  | true :: x :: false :: w => (cut3 w).map (x :: ·)
  | _ => none

/-- Cutting a FourBit wire into groups `1000` and `1110` (R113, R191). -/
def cut4 : List Bool → Option (List Bool)
  | [] => some []
  | true :: x :: y :: false :: w => if x = y then (cut4 w).map (x :: ·) else none
  | _ => none

/-- The logical bits a wire string carries (R191). -/
def logicalBits : Scheme → List Bool → Option (List Bool)
  | .threeBit, w => cut3 w
  | .fourBit, w => cut4 w

/-- The byte of eight bits, most significant first (R191). -/
def byteOfBits (bs : List Bool) : Byte :=
  bs.foldl (fun v b => (v <<< 1) ||| (BitVec.ofBool b).setWidth 8) 0x00#8

/-- The color of 24 logical bits: green, red, blue, most significant bit first (R191). -/
def colorOfBits (bs : List Bool) : Color :=
  ⟨byteOfBits ((bs.drop 8).take 8), byteOfBits (bs.take 8), byteOfBits ((bs.drop 16).take 8)⟩

/-- The wire bits of one slot: 24 source bits, 3 or 4 transport bits each (R81, R113). -/
def slotWireBits (s : Scheme) : Nat := 24 * s.factor

/-- The color that slot `i` of a wire string encodes, where the slot is whole and well formed (R190, R191). -/
def slotColor (s : Scheme) (w : List Bool) (i : Nat) : Option Color :=
  let slot := (w.drop (i * slotWireBits s)).take (slotWireBits s)
  if slot.length = slotWireBits s then (logicalBits s slot).map colorOfBits else none

/-- One frame as far as the strip is concerned: the wire bits between two settle delays, the clocks they were
sent at (R189), and whether the line was corrupted meanwhile (R192). -/
structure WireFrame where
  bits : List Bool
  clocks : List Nat
  corrupted : Bool
  deriving DecidableEq, Repr, Inhabited

/-- A frame of which the line has carried nothing. -/
def WireFrame.empty : WireFrame := ⟨[], [], false⟩

/-- The line's history as the strip sees it: the frames that a settle delay has followed, oldest first, and the frame
that none has followed yet (R169, R189). -/
structure Frames where
  settled : List WireFrame
  current : WireFrame
  deriving DecidableEq, Repr, Inhabited

/-- Cutting the line's history into frames; `cur` is the frame so far. A settle ends a frame where it is longer
than the strip's latch threshold; transfers with none between them form one frame (R189). -/
def framesFrom (latch : Nat) (cur : WireFrame) : List LineEvent → Frames
  | [] => ⟨[], cur⟩
  | .transfer bits clock :: l => framesFrom latch ⟨cur.bits ++ bits, cur.clocks ++ [clock], cur.corrupted⟩ l
  | .settle d :: l =>
    if latch < d then
      let rest := framesFrom latch WireFrame.empty l
      ⟨cur :: rest.settled, rest.current⟩
    else framesFrom latch cur l
  | .glitch :: l => framesFrom latch { cur with corrupted := true } l

/-- The frames the line has carried (R189). -/
def framesOf (latch : Nat) (l : List LineEvent) : Frames := framesFrom latch WireFrame.empty l

/-- What LED `i` shows after one frame built in scheme `s`: the color of slot `i` (R190), its old color where the
frame does not reach it (95 X3), and a free value where the line was corrupted, a clock does not match, the timing is
not adequate, or the slot is partial (R180, R188, R192, R114; 93 items 6, 7, 8, 20). `key` numbers the frame. -/
def ledAfter (p : Platform) (s : Scheme) (f : WireFrame) (key i : Nat) (before : Color) : Color :=
  if f.corrupted then Config.freeColor key i
  else if f.bits = [] then before
  else if (∀ c ∈ f.clocks, p.ClockMatches s c) ∧ p.timingOK s = true then
    if f.bits.length ≤ i * slotWireBits s then before
    else (slotColor s f.bits i).getD (Config.freeColor key i)
  else Config.freeColor key i

/-- What LED `i` shows after these frames, each one settled and built in scheme `s`; `before` is what it showed at
launch, and `key` numbers the first frame. -/
def ledAfterFrames (p : Platform) (s : Scheme) (i : Nat) : List WireFrame → (key : Nat) → (before : Color) → Color
  | [], _, before => before
  | f :: fs, key, before => ledAfterFrames p s i fs (key + 1) (ledAfter p s f key i before)

/-- The premises of R169 on the moment of a claim about the strip: no transfer is in flight, and a settle delay has
followed the last one. Log 25. -/
abbrev State.LineSettled (st : State) : Prop :=
  st.owned = [] ∧ (framesOf st.platform.latch st.line).current = WireFrame.empty

/-- What LED `i` of the strip shows in state `st`, every frame built in scheme `s` (R190). From the start of a transfer
until the settle delay after it, asynchronous transfers still in flight among them, it is a free value: the spec
speaks only of the display after the transfer (R188), under R169's premise on the settle delay. DESIGN CHOICE,
log 25. -/
def State.ledShows (st : State) (s : Scheme) (i : Nat) (before : Color) : Color :=
  if st.LineSettled then
    ledAfterFrames st.platform s i (framesOf st.platform.latch st.line).settled 0 before
  else Config.unsettledColor st.agenda.length st.draws i

end Sys2Proof.Machine
end

