-- ==== Sys2Proof/Safety.lean ====
section
/-! DEFINITION. What counts as the end of a run, a good end, and a reachable or fair run (43_register_access.md
R169; 60_exceptions.md R213; 70_reset_and_hazards.md R245), and the invariant of the machine that the statements
use. -/

namespace Sys2Proof

/-- Where the transfer that is the `k`-th in flight stands after a turn: nowhere, once that turn has completed it; one
place earlier where an older one is completed (R184, log 8). -/
def Turn.follow : Turn → Nat → Option Nat
  | .transport l, k => if l = k then none else if l < k then some (k - 1) else some k
  | .host, k => some k
  | .core, k => some k
  | .reset, k => some k
  | .setClock _, k => some k
  | .glitch, k => some k

end Sys2Proof

namespace Sys2Proof.Machine

/-- A run has ended: the program is done, no command runs and no transfer is in flight (R169). -/
abbrev State.Final (s : State) : Prop :=
  s.hpc = s.program.length ∧ s.block.status.busy = false ∧ s.owned = []

/-- A good end: no model fault was recorded (R169, R213). -/
abbrev State.GoodFinal (s : State) : Prop := s.Final ∧ s.faults = []

/-- STATUS and BYTE_COUNT are in one of the states a host can see (R31, R32): idle and never run; running, with
BYTE_COUNT 0; finished without error; finished with an error, with its code and BYTE_COUNT 0. -/
abbrev Block.StatusOK (b : Block) : Prop :=
  (b.status = ⟨false, false, false, false, 0#3⟩ ∧ b.byteCount = 0#32) ∨
  (b.status.busy = true ∧ b.status.done = false ∧ b.status.error = false ∧ b.status.errCode = 0#3 ∧
    b.byteCount = 0#32) ∨
  (b.status.busy = false ∧ b.status.done = true ∧ b.status.error = false ∧ b.status.errCode = 0#3 ∧
    b.byteCount.toNat ≤ 786420) ∨
  (b.status.busy = false ∧ b.status.done = true ∧ b.status.error = true ∧ 1 ≤ b.status.errCode.toNat ∧
    b.status.errCode.toNat ≤ 5 ∧ b.byteCount = 0#32)

/-- Every transfer in flight has a non-empty range inside the address space (R50, R182). -/
abbrev State.OwnedOK (s : State) : Prop :=
  ∀ r ∈ s.owned, 0 < r.size ∧ r.base + r.size ≤ Config.addrLimit

/-- No running command's destination meets a transfer in flight, unless a model fault says so (R240). -/
abbrev State.Exclusive (s : State) : Prop :=
  s.faults = [] → s.block.status.busy = true → ¬ s.Owns s.block.dstRange

/-- The invariant every step keeps. -/
abbrev State.Inv (s : State) : Prop :=
  s.mem.wf ∧ s.block.StatusOK ∧ s.OwnedOK ∧ s.Exclusive

/-- An infinite run: each state is the next state of the one before (R11). -/
def IsRun (run : Nat → State) : Prop := ∀ n, step (run n) = .next (run (n + 1))

/-- Weak fairness of the core's step (R245): as long as BUSY stays set, its turn comes. -/
def CoreFair (run : Nat → State) : Prop :=
  ∀ n, ∃ m, n ≤ m ∧ ((run m).block.status.busy = false ∨ (run m).nextTurn = .core)

/-- Where the transfer that is the `k`-th in flight at point `n` of a run stands `j` steps later; none once it has
completed. -/
def placeAfter (run : Nat → State) (n k : Nat) : Nat → Option Nat
  | 0 => some k
  | j + 1 => (placeAfter run n k j).bind (run (n + j)).nextTurn.follow

/-- Weak fairness of the transport's completion step (R184): every transfer in flight completes in the end (93
item 9). -/
def TransportFair (run : Nat → State) : Prop :=
  ∀ n k, k < (run n).owned.length → ∃ j, placeAfter run n k j = none

end Sys2Proof.Machine
end

