-- ==== Sys2Proof/Certificates/Slice0/Obligations.lean ====
section
/-! DEFINITION. The statements for the provers. Each docstring names the rule of spec/ it formalises; a clause that
rests on a choice of the model names its log entry. The tables of the namespace `Sys2Proof.Spec` are copied from
the rules they name, apart from the machine's own definitions, so that a statement compares the two. -/

namespace Sys2Proof.Spec

open Sys2Proof.Machine

/-- WMASK of the writable registers other than CTRL (R161). -/
def wmask : Reg → Word
  | .ledCount => 0x0000FFFF#32
  | .color => 0x00FFFFFF#32
  | .srcAddr => 0xFFFFFFFF#32
  | .dstAddr => 0xFFFFFFFF#32
  | .dstCap => 0xFFFFFFFF#32
  | .ctrl => 0x00000000#32
  | .status => 0x00000000#32
  | .byteCount => 0x00000000#32

/-- The registers a WR writes: LED_COUNT, COLOR, SRC_ADDR, DST_ADDR, DST_CAP (R161). -/
def writable : List Reg := [.ledCount, .color, .srcAddr, .dstAddr, .dstCap]

/-- SCHEME and OP of the START rows of R73; none for the rows that start nothing. -/
def startSelectors : Instr → Option (BitVec 2 × BitVec 2)
  | .rd _ _ => none
  | .wr _ _ => none
  | .ctrlset _ _ _ => none
  | .encode3 _ => some (0b00#2, 0b00#2)
  | .encode4 _ => some (0b01#2, 0b00#2)
  | .buildframe3 _ => some (0b00#2, 0b01#2)
  | .buildframe4 _ => some (0b01#2, 0b01#2)
  | .buildsingle3 _ => some (0b00#2, 0b10#2)
  | .buildsingle4 _ => some (0b01#2, 0b10#2)
  | .reservedOp _ sch => some (sch, 0b11#2)
  | .reservedScheme8 _ => some (0b10#2, 0b00#2)
  | .reservedScheme9 _ => some (0b10#2, 0b01#2)
  | .reservedSchemeA _ => some (0b10#2, 0b10#2)
  | .reservedSchemeC _ => some (0b11#2, 0b00#2)
  | .reservedSchemeD _ => some (0b11#2, 0b01#2)
  | .reservedSchemeE _ => some (0b11#2, 0b10#2)

/-- The six rows of mnemonic RESERVED_SCHEME (R73, R150). -/
def reservedSchemeRows (ign : BitVec 27) : List Instr :=
  [.reservedScheme8 ign, .reservedScheme9 ign, .reservedSchemeA ign, .reservedSchemeC ign,
    .reservedSchemeD ign, .reservedSchemeE ign]

/-- Bytes for one color (R21): 9 or 12. -/
def slotBytes : Scheme → Nat
  | .threeBit => 9
  | .fourBit => 12

/-- ENCODE in either scheme. -/
def encodeInstr : Scheme → BitVec 27 → Instr
  | .threeBit, ign => .encode3 ign
  | .fourBit, ign => .encode4 ign

/-- BUILDFRAME in either scheme. -/
def buildframeInstr : Scheme → BitVec 27 → Instr
  | .threeBit, ign => .buildframe3 ign
  | .fourBit, ign => .buildframe4 ign

/-- BUILDSINGLE in either scheme. -/
def buildsingleInstr : Scheme → BitVec 27 → Instr
  | .threeBit, ign => .buildsingle3 ign
  | .fourBit, ign => .buildsingle4 ign

/-- ERR_CODE of each error (R201). -/
def codeNumber : CmdError → Nat
  | .badOp => 1
  | .badScheme => 2
  | .addrRange => 3
  | .capacity => 4
  | .overlap => 5

/-- Everything that is neither a register, a host variable, `hpc` nor `faults` is unchanged: every byte of memory,
the transfers in flight, the program, the line, the clock, the platform and the model's own fields. -/
def Untouched (s t : State) : Prop :=
  (∀ a, t.mem.read a = s.mem.read a) ∧ t.owned = s.owned ∧ t.program = s.program ∧ t.line = s.line ∧
    t.bitClock = s.bitClock ∧ t.platform = s.platform ∧ t.agenda = s.agenda ∧ t.draws = s.draws

/-- The registers a command reads are unchanged: CTRL, LED_COUNT, COLOR, SRC_ADDR, DST_ADDR, DST_CAP (R74). -/
def SameOperands (b c : Block) : Prop :=
  c.op = b.op ∧ c.scheme = b.scheme ∧ c.ledCount = b.ledCount ∧ c.color = b.color ∧ c.srcAddr = b.srcAddr ∧
    c.dstAddr = b.dstAddr ∧ c.dstCap = b.dstCap

/-- The ranges `[x, x + n)` and `[y, y + k)` share at least one byte (R204, R206). -/
def Shares (x n y k : Nat) : Prop := ∃ a, x ≤ a ∧ a < x + n ∧ y ≤ a ∧ a < y + k

/-- The hazards of a host write to address `a`, each under the condition of its rule (R240, R241, R242). -/
def WriteHazard (s : State) (a : Nat) (f : ModelFault) : Prop :=
  (f = .ownedBufferWritten ∧ ∃ q ∈ s.owned, q.base ≤ a ∧ a < q.base + q.size) ∨
  (f = .srcWrittenWhileBusy ∧ s.block.status.busy = true ∧ (∃ sch, s.block.command = some (.buildFrame, sch)) ∧
    s.block.srcAddr.toNat ≤ a ∧ a < s.block.srcAddr.toNat + 3 * s.block.ledCount.toNat) ∨
  (f = .dstWrittenWhileBusy ∧ s.block.status.busy = true ∧ s.block.dstRange.Contains a)

/-- Row `off` of the register map, as a transaction of a 32-bit write of `w` to CTRL (R24, R87). -/
def ctrlAccess (w : Word) : BusAccess := ⟨.write w, 0x00#8, 4⟩

end Sys2Proof.Spec

open Sys2Proof Sys2Proof.Machine

/-! ### Decoding and encoding -/

/-- Decoding an encoded well-formed instruction gives it back, with every operand (R70 to R73, R83, R87). -/
def Obligations.DecodeOfEncode : Prop :=
  ∀ i : Instr, i.wf = true → decode (encode i) = .ok i

/-- A transaction that decodes is the encoding of what it decodes to: no bit of it is dropped, and each has one
meaning (R73, R87). -/
def Obligations.EncodeOfDecode : Prop :=
  ∀ (a : BusAccess) (i : Instr), decode a = .ok i → encode i = a ∧ i.wf = true

/-- The table of R73, with the configure-only write of R83, as masks of the data word. -/
def Obligations.CtrlWordsDecodeByTheTable : Prop :=
  ∀ w : Word,
    (w &&& 0x80000000#32 = 0x00000000#32 →
      ∃ ign, decode (Spec.ctrlAccess w) = .ok (.ctrlset ign (w.extractLsb' 2 2) (w.extractLsb' 0 2))) ∧
    (w &&& 0x8000000F#32 = 0x80000000#32 → ∃ ign, decode (Spec.ctrlAccess w) = .ok (.encode3 ign)) ∧
    (w &&& 0x8000000F#32 = 0x80000004#32 → ∃ ign, decode (Spec.ctrlAccess w) = .ok (.encode4 ign)) ∧
    (w &&& 0x8000000F#32 = 0x80000001#32 → ∃ ign, decode (Spec.ctrlAccess w) = .ok (.buildframe3 ign)) ∧
    (w &&& 0x8000000F#32 = 0x80000005#32 → ∃ ign, decode (Spec.ctrlAccess w) = .ok (.buildframe4 ign)) ∧
    (w &&& 0x8000000F#32 = 0x80000002#32 → ∃ ign, decode (Spec.ctrlAccess w) = .ok (.buildsingle3 ign)) ∧
    (w &&& 0x8000000F#32 = 0x80000006#32 → ∃ ign, decode (Spec.ctrlAccess w) = .ok (.buildsingle4 ign)) ∧
    (w &&& 0x80000003#32 = 0x80000003#32 →
      ∃ ign, decode (Spec.ctrlAccess w) = .ok (.reservedOp ign (w.extractLsb' 2 2))) ∧
    (w &&& 0x8000000F#32 = 0x80000008#32 → ∃ ign, decode (Spec.ctrlAccess w) = .ok (.reservedScheme8 ign)) ∧
    (w &&& 0x8000000F#32 = 0x80000009#32 → ∃ ign, decode (Spec.ctrlAccess w) = .ok (.reservedScheme9 ign)) ∧
    (w &&& 0x8000000F#32 = 0x8000000A#32 → ∃ ign, decode (Spec.ctrlAccess w) = .ok (.reservedSchemeA ign)) ∧
    (w &&& 0x8000000F#32 = 0x8000000C#32 → ∃ ign, decode (Spec.ctrlAccess w) = .ok (.reservedSchemeC ign)) ∧
    (w &&& 0x8000000F#32 = 0x8000000D#32 → ∃ ign, decode (Spec.ctrlAccess w) = .ok (.reservedSchemeD ign)) ∧
    (w &&& 0x8000000F#32 = 0x8000000E#32 → ∃ ign, decode (Spec.ctrlAccess w) = .ok (.reservedSchemeE ign))

/-- A few transactions written out from R24, R73 and R87 (a sanity statement). -/
def Obligations.WrittenOutWordsDecode : Prop :=
  decode ⟨.read 5, 0b00011000#8, 4⟩ = .ok (.rd .status 5) ∧
  decode ⟨.write 0x18#32, 0b00010100#8, 4⟩ = .ok (.wr .dstCap 0x18#32) ∧
  decode ⟨.write 0x00000005#32, 0b00000000#8, 4⟩ = .ok (.ctrlset 0#27 0b01#2 0b01#2) ∧
  decode ⟨.write 0x80000004#32, 0b00000000#8, 4⟩ = .ok (.encode4 0#27) ∧
  decode ⟨.write 0x80000001#32, 0b00000000#8, 4⟩ = .ok (.buildframe3 0#27) ∧
  decode ⟨.write 0x80000002#32, 0b00000000#8, 4⟩ = .ok (.buildsingle3 0#27) ∧
  decode ⟨.write 0x8000000B#32, 0b00000000#8, 4⟩ = .ok (.reservedOp 0#27 0b10#2) ∧
  decode ⟨.write 0x8000000D#32, 0b00000000#8, 4⟩ = .ok (.reservedSchemeD 0#27)

/-- R57 and R165: in the span, the defined accesses are the aligned 32-bit ones; every other one records
BadRegAccess and changes no register and no variable. -/
def Obligations.OnlyAlignedWordAccessesAreDefined : Prop :=
  ∀ a : BusAccess, a.offset.toNat < 0x20 →
    ((∃ i, decode a = .ok i) ↔ a.width = 4 ∧ a.offset.toNat ∈ [0x00, 0x04, 0x08, 0x0C, 0x10, 0x14, 0x18, 0x1C]) ∧
    (¬ (a.width = 4 ∧ a.offset.toNat ∈ [0x00, 0x04, 0x08, 0x0C, 0x10, 0x14, 0x18, 0x1C]) →
      ∀ s : State, ∃ t, execBus a s = .next t ∧
        (∀ f, f ∈ t.faults ↔ f = .badRegAccess ∨ f ∈ s.faults) ∧ t.block = s.block ∧ t.vars = s.vars ∧
        Spec.Untouched s t)

/-- A host byte access to an address of the register span is a bad register access (the model's reading of R57 and
R165, log 7): it changes no register, no variable and no byte of memory. An `mwr` there that also breaches a hazard
rule records that fault beside it (the model's choice, log 7). An access outside the span is refused (log 16). -/
def Obligations.ByteAccessesInTheSpanAreBad : Prop :=
  ∀ (s : State) (a : Word) (b : Byte) (v : Var),
    s.platform.regBase.val ≤ a.toNat → a.toNat < s.platform.regBase.val + 0x20 →
    (∃ t, execMwr a b s = .next t ∧
      (∀ f, f ∈ t.faults ↔ f ∈ s.faults ∨ f = .badRegAccess ∨ Spec.WriteHazard s a.toNat f) ∧
      t.block = s.block ∧ t.vars = s.vars ∧ t.hpc = s.hpc + 1 ∧ Spec.Untouched s t) ∧
    (∃ t, execMrd a v s = .next t ∧ (∀ f, f ∈ t.faults ↔ f ∈ s.faults ∨ f = .badRegAccess) ∧
      t.block = s.block ∧ t.vars = s.vars ∧ t.hpc = s.hpc + 1 ∧ Spec.Untouched s t) ∧
    (∀ acc : BusAccess, 0x20 ≤ acc.offset.toNat → execBus acc s = .refused (.notARegister acc.offset))

/-! ### Registers and host accesses to them -/

/-- The words of the registers, bit by bit, reserved bits 0 and START 0 (R25 to R33). -/
def Obligations.RegisterWordLayout : Prop :=
  ∀ b : Block,
    ((b.value .ctrl).extractLsb' 0 2 = b.op ∧ (b.value .ctrl).extractLsb' 2 2 = b.scheme ∧
      ∀ i, 4 ≤ i → (b.value .ctrl).getLsbD i = false) ∧
    ((b.value .ledCount).extractLsb' 0 16 = b.ledCount ∧ ∀ i, 16 ≤ i → (b.value .ledCount).getLsbD i = false) ∧
    ((b.value .color).extractLsb' 0 8 = b.color.blue ∧ (b.value .color).extractLsb' 8 8 = b.color.green ∧
      (b.value .color).extractLsb' 16 8 = b.color.red ∧ ∀ i, 24 ≤ i → (b.value .color).getLsbD i = false) ∧
    ((b.value .status).getLsbD 0 = b.status.busy ∧ (b.value .status).getLsbD 1 = b.status.done ∧
      (b.value .status).getLsbD 2 = b.status.error ∧ (b.value .status).getLsbD 3 = b.status.ignored ∧
      (b.value .status).extractLsb' 4 3 = b.status.errCode ∧
      ∀ i, 7 ≤ i → (b.value .status).getLsbD i = false) ∧
    b.value .srcAddr = b.srcAddr ∧ b.value .dstAddr = b.dstAddr ∧ b.value .dstCap = b.dstCap ∧
    b.value .byteCount = b.byteCount

/-- RD gives the variable the register's word and has no side effect, BUSY or not (R160, R60). -/
def Obligations.RdReadsTheRegister : Prop :=
  ∀ (r : Reg) (v : Var) (s : State), ∃ t, exec (.rd r v) s = .next t ∧
    t.vars.get? v = some (s.block.value r) ∧ (∀ u, u ≠ v → t.vars.get? u = s.vars.get? u) ∧
    t.hpc = s.hpc + 1 ∧ t.block = s.block ∧ t.faults = s.faults ∧ Spec.Untouched s t

/-- WR while idle to a writable register other than CTRL: it reads back the value under WMASK, and every other
register reads as before (R161). -/
def Obligations.WrStoresTheMaskedValue : Prop :=
  ∀ (r : Reg) (d : Word) (s : State), r ∈ Spec.writable → s.block.status.busy = false →
    ∃ t, exec (.wr r d) s = .next t ∧ t.block.value r = d &&& Spec.wmask r ∧
      (∀ q, q ≠ r → t.block.value q = s.block.value q) ∧ t.hpc = s.hpc + 1 ∧ t.vars = s.vars ∧
      t.faults = s.faults ∧ Spec.Untouched s t

/-- WR while idle to STATUS or BYTE_COUNT changes nothing and does not set IGNORED; `hpc` advances (R166). -/
def Obligations.WrToReadOnlyChangesNothing : Prop :=
  ∀ (r : Reg) (d : Word) (s : State), r ∈ [Reg.status, Reg.byteCount] → s.block.status.busy = false →
    ∃ t, exec (.wr r d) s = .next t ∧ t.block = s.block ∧ t.hpc = s.hpc + 1 ∧ t.vars = s.vars ∧
      t.faults = s.faults ∧ Spec.Untouched s t

/-- Any write while BUSY, START writes among them, sets IGNORED and changes no other register; `hpc` advances
(R162). -/
def Obligations.WriteWhileBusySetsIgnored : Prop :=
  ∀ (i : Instr) (s : State), (∀ r v, i ≠ .rd r v) → s.block.status.busy = true →
    ∃ t, exec i s = .next t ∧ t.block.status.ignored = true ∧ t.block.status.busy = true ∧
      t.block.status.done = s.block.status.done ∧ t.block.status.error = s.block.status.error ∧
      t.block.status.errCode = s.block.status.errCode ∧ Spec.SameOperands s.block t.block ∧
      t.block.byteCount = s.block.byteCount ∧ t.hpc = s.hpc + 1 ∧ t.vars = s.vars ∧ t.faults = s.faults ∧
      Spec.Untouched s t

/-- CTRLSET while idle sets OP and SCHEME, reserved values included, starts nothing and leaves STATUS and every other
register (R163). -/
def Obligations.CtrlsetSetsTheSelectors : Prop :=
  ∀ (ign : BitVec 27) (sch op : BitVec 2) (s : State), s.block.status.busy = false →
    ∃ t, exec (.ctrlset ign sch op) s = .next t ∧ t.block.op = op ∧ t.block.scheme = sch ∧
      (∀ r, r ≠ .ctrl → t.block.value r = s.block.value r) ∧ t.block.status = s.block.status ∧
      t.hpc = s.hpc + 1 ∧ t.vars = s.vars ∧ t.faults = s.faults ∧ Spec.Untouched s t

/-- The acceptance of R140 (R164) for the thirteen START rows: OP and SCHEME are the word's, BUSY is set and every
other STATUS field cleared, BYTE_COUNT is 0, the operand registers stay; DstOwnedByTransport is recorded exactly
where OP and SCHEME are defined and the destination range, `nbytes > 0`, shares a byte with a range in flight,
whether or not the command would complete with an error (R238). -/
def Obligations.StartIsAcceptedWhileIdle : Prop :=
  ∀ (i : Instr) (sch op : BitVec 2) (s : State), Spec.startSelectors i = some (sch, op) →
    s.block.status.busy = false →
    ∃ t, exec i s = .next t ∧ t.block.op = op ∧ t.block.scheme = sch ∧
      t.block.value .status = 0x00000001#32 ∧ t.block.value .byteCount = 0x00000000#32 ∧
      (∀ r ∈ Spec.writable, t.block.value r = s.block.value r) ∧
      (∀ f, f ∈ t.faults ↔ f ∈ s.faults ∨
        (f = .dstOwnedByTransport ∧ op ≠ 0b11#2 ∧ (sch = 0b00#2 ∨ sch = 0b01#2) ∧
          ∃ q ∈ s.owned, Spec.Shares q.base q.size s.block.dstAddr.toNat
            ((if sch = 0b00#2 then 9 else 12) * (if op = 0b00#2 then 1 else s.block.ledCount.toNat)))) ∧
      t.hpc = s.hpc + 1 ∧ t.vars = s.vars ∧ Spec.Untouched s t

/-- The frame of every instruction: no byte of memory, no transfer in flight and nothing else outside the registers,
the variables, `hpc` and `faults` changes; only RD writes a variable, its own; `hpc` advances by 1; no fault is
removed, and only an instruction that starts a command, or a write to CTRL with START = 1, records one, while idle
(R23, R51, R60, R140, R151). -/
def Obligations.InstructionFrame : Prop :=
  ∀ (i : Instr) (s : State), ∃ t, exec i s = .next t ∧ t.hpc = s.hpc + 1 ∧ Spec.Untouched s t ∧
    (∀ u, t.vars.get? u ≠ s.vars.get? u → ∃ r, i = .rd r u) ∧
    (∀ f, f ∈ s.faults → f ∈ t.faults) ∧
    (∀ f, f ∈ t.faults → f ∈ s.faults ∨ (f = .dstOwnedByTransport ∧ s.block.status.busy = false ∧
      (Spec.startSelectors i ≠ none ∨ ∃ d, i = .wr .ctrl d ∧ d.getLsbD 31 = true)))

/-! ### Commands: acceptance and the core's step together -/

/-- ENCODE in both schemes (R143, R144): accepted while idle, it then writes the encoding of COLOR at DST_ADDR and
nothing else, and completes with BYTE_COUNT 9 or 12. It reads neither LED_COUNT nor SRC_ADDR. -/
def Obligations.EncodeWritesOneSlot : Prop :=
  ∀ (sch : Scheme) (ign : BitVec 27) (s : State), s.mem.wf → s.block.status.busy = false →
    s.block.dstAddr.toNat + Spec.slotBytes sch ≤ 2 ^ 32 →
    ¬ Spec.Shares s.block.dstAddr.toNat (Spec.slotBytes sch) s.platform.regBase.val 0x20 →
    Spec.slotBytes sch ≤ s.block.dstCap.toNat →
    (∀ k < Spec.slotBytes sch, s.platform.MemOK (s.block.dstAddr.toNat + k)) →
    ∃ t, exec (Spec.encodeInstr sch ign) s = .next t ∧
      (coreStep t).mem.readBytes s.block.dstAddr.toNat (Spec.slotBytes sch) = encodeColor sch s.block.color ∧
      (∀ a, ¬ (Range.mk s.block.dstAddr.toNat (Spec.slotBytes sch)).Contains a →
        (coreStep t).mem.read a = s.mem.read a) ∧
      (coreStep t).block.value .status = 0x00000002#32 ∧
      (coreStep t).block.byteCount.toNat = Spec.slotBytes sch ∧
      (∀ r ∈ Spec.writable, (coreStep t).block.value r = s.block.value r)

/-- BUILDFRAME in both schemes (R145, R146, R54): slot `i` of the destination is the encoding of the color whose
three bytes stand at SRC_ADDR + 3i before the command; nothing else changes, and BYTE_COUNT is the frame's size. -/
def Obligations.BuildframeWritesEverySlot : Prop :=
  ∀ (sch : Scheme) (ign : BitVec 27) (s : State) (n nb : Nat), s.mem.wf → s.block.status.busy = false →
    n = s.block.ledCount.toNat → nb = Spec.slotBytes sch * n →
    s.block.dstAddr.toNat + nb ≤ 2 ^ 32 → ¬ Spec.Shares s.block.dstAddr.toNat nb s.platform.regBase.val 0x20 →
    s.block.srcAddr.toNat + 3 * n ≤ 2 ^ 32 →
    ¬ Spec.Shares s.block.srcAddr.toNat (3 * n) s.platform.regBase.val 0x20 →
    nb ≤ s.block.dstCap.toNat → ¬ Spec.Shares s.block.srcAddr.toNat (3 * n) s.block.dstAddr.toNat nb →
    (∀ k < nb, s.platform.MemOK (s.block.dstAddr.toNat + k)) →
    (∀ k < 3 * n, s.platform.MemOK (s.block.srcAddr.toNat + k)) →
    ∃ t, exec (Spec.buildframeInstr sch ign) s = .next t ∧
      (∀ i < n, (coreStep t).mem.readBytes (s.block.dstAddr.toNat + Spec.slotBytes sch * i) (Spec.slotBytes sch) =
        encodeColor sch ⟨s.mem.read (s.block.srcAddr.toNat + 3 * i), s.mem.read (s.block.srcAddr.toNat + 3 * i + 1),
          s.mem.read (s.block.srcAddr.toNat + 3 * i + 2)⟩) ∧
      (∀ a, ¬ (Range.mk s.block.dstAddr.toNat nb).Contains a → (coreStep t).mem.read a = s.mem.read a) ∧
      (coreStep t).block.value .status = 0x00000002#32 ∧ (coreStep t).block.byteCount.toNat = nb ∧
      (∀ r ∈ Spec.writable, (coreStep t).block.value r = s.block.value r)

/-- BUILDSINGLE in both schemes (R147, R148): every slot of the destination is the encoding of COLOR; nothing else
changes, and BYTE_COUNT is the frame's size. SRC_ADDR is not read. -/
def Obligations.BuildsingleFillsEverySlot : Prop :=
  ∀ (sch : Scheme) (ign : BitVec 27) (s : State) (n nb : Nat), s.mem.wf → s.block.status.busy = false →
    n = s.block.ledCount.toNat → nb = Spec.slotBytes sch * n →
    s.block.dstAddr.toNat + nb ≤ 2 ^ 32 → ¬ Spec.Shares s.block.dstAddr.toNat nb s.platform.regBase.val 0x20 →
    nb ≤ s.block.dstCap.toNat → (∀ k < nb, s.platform.MemOK (s.block.dstAddr.toNat + k)) →
    ∃ t, exec (Spec.buildsingleInstr sch ign) s = .next t ∧
      (∀ i < n, (coreStep t).mem.readBytes (s.block.dstAddr.toNat + Spec.slotBytes sch * i) (Spec.slotBytes sch) =
        encodeColor sch s.block.color) ∧
      (∀ a, ¬ (Range.mk s.block.dstAddr.toNat nb).Contains a → (coreStep t).mem.read a = s.mem.read a) ∧
      (coreStep t).block.value .status = 0x00000002#32 ∧ (coreStep t).block.byteCount.toNat = nb ∧
      (∀ r ∈ Spec.writable, (coreStep t).block.value r = s.block.value r)

/-- RESERVED_OP (R149): accepted while idle, it completes with BAD_OP whatever SCHEME and the other registers hold,
and touches no memory. -/
def Obligations.ReservedOpCompletesWithBadOp : Prop :=
  ∀ (ign : BitVec 27) (sch : BitVec 2) (s : State), s.block.status.busy = false →
    ∃ t, exec (.reservedOp ign sch) s = .next t ∧ t.block.status.busy = true ∧
      (coreStep t).block.value .status = 0x00000016#32 ∧ (coreStep t).block.value .byteCount = 0x00000000#32 ∧
      (coreStep t).mem = s.mem

/-- RESERVED_SCHEME, all six rows (R150): accepted while idle, it completes with BAD_SCHEME for every LED count, zero
included, and touches no memory. -/
def Obligations.ReservedSchemeCompletesWithBadScheme : Prop :=
  ∀ (ign : BitVec 27) (i : Instr) (s : State), i ∈ Spec.reservedSchemeRows ign → s.block.status.busy = false →
    ∃ t, exec i s = .next t ∧ t.block.status.busy = true ∧
      (coreStep t).block.value .status = 0x00000026#32 ∧ (coreStep t).block.value .byteCount = 0x00000000#32 ∧
      (coreStep t).mem = s.mem

/-- `check` and its priority (R207): the first error that applies, in the order BAD_OP, BAD_SCHEME, ADDR_RANGE,
CAPACITY, OVERLAP, with sizes in exact naturals. -/
def Obligations.CheckFollowsThePriority : Prop :=
  ∀ (regBase : Nat) (b : Block) (nb sb dst src : Nat),
    nb = (if b.scheme = 0b00#2 then 9 else 12) * (if b.op = 0b00#2 then 1 else b.ledCount.toNat) →
    sb = (if b.op = 0b01#2 then 3 * b.ledCount.toNat else 0) → dst = b.dstAddr.toNat → src = b.srcAddr.toNat →
    (b.op = 0b11#2 → check ⟨regBase, 0x20⟩ b = some .badOp) ∧
    (b.op ≠ 0b11#2 → b.scheme = 0b10#2 ∨ b.scheme = 0b11#2 → check ⟨regBase, 0x20⟩ b = some .badScheme) ∧
    (b.op ≠ 0b11#2 → b.scheme = 0b00#2 ∨ b.scheme = 0b01#2 →
      ((nb > 0 ∧ (dst + nb > 2 ^ 32 ∨ Spec.Shares dst nb regBase 0x20) ∨
          sb > 0 ∧ (src + sb > 2 ^ 32 ∨ Spec.Shares src sb regBase 0x20)) →
        check ⟨regBase, 0x20⟩ b = some .addrRange) ∧
      (¬ (nb > 0 ∧ (dst + nb > 2 ^ 32 ∨ Spec.Shares dst nb regBase 0x20) ∨
          sb > 0 ∧ (src + sb > 2 ^ 32 ∨ Spec.Shares src sb regBase 0x20)) →
        (nb > b.dstCap.toNat → check ⟨regBase, 0x20⟩ b = some .capacity) ∧
        (nb ≤ b.dstCap.toNat → sb > 0 ∧ Spec.Shares src sb dst nb → check ⟨regBase, 0x20⟩ b = some .overlap) ∧
        (nb ≤ b.dstCap.toNat → ¬ (sb > 0 ∧ Spec.Shares src sb dst nb) → check ⟨regBase, 0x20⟩ b = none)))

/-- A command error's completion (R200, R208): STATUS shows DONE, ERROR and the code, IGNORED keeps its value,
BYTE_COUNT is 0, the operands stay; no byte of memory is written, and none is read: with any other memory the
result is the same but for that memory. -/
def Obligations.ErrorCompletionTouchesNoMemory : Prop :=
  ∀ (s : State) (e : CmdError) (m : Memory), s.block.status.busy = true →
    check s.platform.span s.block = some e →
    (coreStep s).block.status.busy = false ∧ (coreStep s).block.status.done = true ∧
    (coreStep s).block.status.error = true ∧ (coreStep s).block.status.errCode.toNat = Spec.codeNumber e ∧
    (coreStep s).block.status.ignored = s.block.status.ignored ∧ (coreStep s).block.byteCount = 0#32 ∧
    Spec.SameOperands s.block (coreStep s).block ∧ Spec.Untouched s (coreStep s) ∧
    (coreStep s).faults = s.faults ∧ (coreStep s).hpc = s.hpc ∧ (coreStep s).vars = s.vars ∧
    coreStep (s.withMem m) = (coreStep s).withMem m

/-- The completion without error (R142): the body is written at DST_ADDR and read back there, BYTE_COUNT is its
length, IGNORED keeps its value. -/
def Obligations.SuccessfulCompletion : Prop :=
  ∀ s : State, s.mem.wf → s.block.status.busy = true → check s.platform.span s.block = none →
    s.platform.Admits s.block.srcRange → s.platform.Admits s.block.dstRange →
    (coreStep s).block.status = ⟨false, true, false, s.block.status.ignored, 0#3⟩ ∧
    (coreStep s).block.byteCount.toNat = s.block.dstRange.size ∧
    (coreStep s).mem.readBytes s.block.dstRange.base s.block.dstRange.size = body s.block s.mem

/-- The frame of the core's step (R51, R125, R141, R151): idle, it does nothing; else every byte outside the
destination range keeps its value, the operand registers stay, and the host, the transfers in flight and the line
are not touched. -/
def Obligations.CoreStepFrame : Prop :=
  ∀ s : State, s.mem.wf →
    (s.block.status.busy = false → coreStep s = s) ∧
    (∀ a, ¬ s.block.dstRange.Contains a → (coreStep s).mem.read a = s.mem.read a) ∧
    Spec.SameOperands s.block (coreStep s).block ∧
    (coreStep s).owned = s.owned ∧ (coreStep s).line = s.line ∧ (coreStep s).bitClock = s.bitClock ∧
    (coreStep s).program = s.program ∧ (coreStep s).hpc = s.hpc ∧ (coreStep s).vars = s.vars ∧
    (coreStep s).platform = s.platform ∧ (coreStep s).agenda = s.agenda ∧ (coreStep s).draws = s.draws ∧
    (∀ f, f ∈ (coreStep s).faults → f ∈ s.faults ∨ f = .memNotAdmitted)

/-- MemNotAdmitted (R52, R141): a command that passed the check and has a source or destination byte with MemOK false
records the fault, writes nothing, and the run goes no further (R213). -/
def Obligations.NotAdmittedStopsTheRun : Prop :=
  ∀ s : State, s.block.status.busy = true → check s.platform.span s.block = none →
    (∃ a, (s.block.srcRange.Contains a ∨ s.block.dstRange.Contains a) ∧ ¬ s.platform.MemOK a) →
    .memNotAdmitted ∈ (coreStep s).faults ∧ (coreStep s).mem = s.mem ∧
    ∃ f, step (coreStep s) = .fault (.modelFault f)

/-- BUILDFRAME and BUILDSINGLE with count 0 complete without error, whatever the address and capacity registers hold:
STATUS reads 0x2, or 0xA where IGNORED was set, BYTE_COUNT is 0 and memory is not accessed (R152). -/
def Obligations.ZeroCountCompletesWithoutError : Prop :=
  ∀ s : State, s.block.status.busy = true → s.block.op = 0b01#2 ∨ s.block.op = 0b10#2 →
    s.block.scheme = 0b00#2 ∨ s.block.scheme = 0b01#2 → s.block.ledCount = 0#16 →
    (coreStep s).block.value .status = (if s.block.status.ignored then 0x0000000A#32 else 0x00000002#32) ∧
    (coreStep s).block.value .byteCount = 0x00000000#32 ∧ (coreStep s).mem = s.mem ∧
    (coreStep s).faults = s.faults

/-- No value of COLOR and no byte of memory decides STATUS, BYTE_COUNT or a fault (R210). -/
def Obligations.ColorsNeverCauseAnError : Prop :=
  ∀ (s : State) (c : Color) (m : Memory),
    (coreStep ((s.withBlock { s.block with color := c }).withMem m)).block.status = (coreStep s).block.status ∧
    (coreStep ((s.withBlock { s.block with color := c }).withMem m)).block.byteCount =
      (coreStep s).block.byteCount ∧
    (coreStep ((s.withBlock { s.block with color := c }).withMem m)).faults = (coreStep s).faults

/-- Two runs of one command with the same registers leave byte-identical memory (R127). -/
def Obligations.CommandIsIdempotent : Prop :=
  ∀ (s : State) (a : Nat), s.mem.wf → s.block.status.busy = true → check s.platform.span s.block = none →
    s.platform.Admits s.block.srcRange → s.platform.Admits s.block.dstRange →
    (coreStep ((coreStep s).withBlock s.block)).mem.read a = (coreStep s).mem.read a

/-! ### The encoders and frames -/

/-- The channel formats as bit strings, first-sent bit first (R78, R79, R101, R103): `1 v 0` for each source bit, and
`1 v v 0`; and the closed forms. -/
def Obligations.ChannelBitStrings : Prop :=
  ∀ v : Byte,
    wire (chan3 v) = (List.range 8).flatMap (fun j => [true, v.getLsbD (7 - j), false]) ∧
    wire (chan4 v) = (List.range 8).flatMap (fun j => [true, v.getLsbD (7 - j), v.getLsbD (7 - j), false]) ∧
    chan3 v = chan3Closed v ∧ chan4 v = chan4Closed v

/-- The skeleton invariant of ThreeBit and the byte invariant of FourBit (R110, R111). -/
def Obligations.ChannelInvariants : Prop :=
  ∀ v : Byte,
    (∃ x y z, chan3 v = [x, y, z] ∧ x &&& 0x92#8 = 0x92#8 ∧ y &&& 0x49#8 = 0x49#8 ∧ z &&& 0x24#8 = 0x24#8 ∧
      x &&& 0x24#8 = 0#8 ∧ y &&& 0x92#8 = 0#8 ∧ z &&& 0x49#8 = 0#8) ∧
    (∀ x ∈ chan4 v, x ∈ [0x88#8, 0x8E#8, 0xE8#8, 0xEE#8])

/-- A slot is the encoding of green, then red, then blue, each `factor` bytes long (R80, R104, R105). -/
def Obligations.SlotIsGreenRedBlue : Prop :=
  ∀ c : Color,
    (encodeColor .threeBit c).length = 9 ∧ (encodeColor .threeBit c).take 3 = chan3 c.green ∧
    ((encodeColor .threeBit c).drop 3).take 3 = chan3 c.red ∧ (encodeColor .threeBit c).drop 6 = chan3 c.blue ∧
    (encodeColor .fourBit c).length = 12 ∧ (encodeColor .fourBit c).take 4 = chan4 c.green ∧
    ((encodeColor .fourBit c).drop 4).take 4 = chan4 c.red ∧ (encodeColor .fourBit c).drop 8 = chan4 c.blue

/-- The round trips of both schemes: decoding an encoded color gives it back (R108, R109). -/
def Obligations.DecodeColorOfEncodeColor : Prop :=
  ∀ (s : Scheme) (c : Color), decodeColor s (encodeColor s c) = some c

/-- An encoding tells its scheme and its color (R112). -/
def Obligations.EncodeColorIsInjective : Prop :=
  ∀ (s u : Scheme) (c d : Color), encodeColor s c = encodeColor u d → s = u ∧ c = d

/-- The slice law: slot `i` of a frame, at its slot offset, is the encoding of color `i` (R122). -/
def Obligations.FrameSliceLaw : Prop :=
  ∀ (s : Scheme) (colors : List Color) (n i : Nat) (h : i < colors.length), i < n → n ≤ colors.length →
    ((frame s colors n).drop (slotOffset s i)).take s.bytesPerColor = encodeColor s (colors[i]'h)

/-- The size law: a frame of either mode is `factor × 3 × n` bytes long (R124). -/
def Obligations.FrameSizeLaw : Prop :=
  ∀ (s : Scheme) (colors : List Color) (c : Color) (n : Nat), n ≤ colors.length →
    (frame s colors n).length = s.factor * 3 * n ∧ (frameSingle s c n).length = s.factor * 3 * n

/-- The replicate law: single-color mode equals per-LED mode with `n` copies (R123). -/
def Obligations.FrameSingleIsReplicate : Prop :=
  ∀ (s : Scheme) (c : Color) (n : Nat), frameSingle s c n = frame s (List.replicate n c) n

/-! ### The transport and the strip -/

/-- The wire string of a frame, decoded by R191, gives every color back in its place (R181, R190, R191). -/
def Obligations.WireCarriesTheColors : Prop :=
  ∀ (s : Scheme) (colors : List Color) (i : Nat) (h : i < colors.length),
    slotColor s (wire (frame s colors colors.length)) i = some (colors[i]'h)

/-- A buffer that holds a frame, sent in either mode as the first transfer or the first one after a settle delay longer
than the latch threshold, with no other in flight, no hazard, the clock of its scheme and that scheme's timing
adequate: once no transfer is in flight and the line has carried nothing more, a settle goes on, and LED `i` then shows
color `i` and the LEDs behind the frame show what they showed (R169, R181, R188, R189, R190, R191; the line's record
of the transfer: log 9; the LEDs behind the frame: log 19; the display before the settle is free: log 25). -/
def Obligations.SentFrameIsShown : Prop :=
  ∀ (sch : Scheme) (colors : List Color) (a : Word) (mode : XmitMode) (s : State) (before : Color),
    s.faults = [] → s.owned = [] →
    (s.line = [] ∨ ∃ l d, s.line = l ++ [.settle d] ∧ s.platform.latch < d) →
    ¬ (s.block.status.busy = true ∧ Spec.Shares a.toNat (Spec.slotBytes sch * colors.length)
      s.block.dstRange.base s.block.dstRange.size) →
    s.bitClock = s.platform.fBit sch → s.platform.timingOK sch = true → colors ≠ [] →
    a.toNat + Spec.slotBytes sch * colors.length ≤ 2 ^ 32 →
    s.mem.readBytes a.toNat (Spec.slotBytes sch * colors.length) = frame sch colors colors.length →
    ∃ t, execXmit a (Spec.slotBytes sch * colors.length) mode s = .next t ∧ t.faults = [] ∧
      ∀ u : State, u.line = t.line → u.platform = t.platform → u.owned = [] →
        ∃ v, execSettle u = .next v ∧
          (∀ (i : Nat) (h : i < colors.length), v.ledShows sch i before = colors[i]'h) ∧
          (∀ i, colors.length ≤ i → v.ledShows sch i before = s.ledShows sch i before)

/-- `xmit` (R180 to R185; that the line records the whole string at the start is log 9, that `owned` has one entry for
each transfer log 8, that a synchronous transfer is one step log 21, that the bytes sent from a running command's
destination are those in memory log 26): with `k > 0` the line carries the bytes that are in memory at the start,
MSB first, the same string in both modes; an asynchronous transfer's range is in flight from then on, a synchronous
one's is not; TransmitWhileBusy is recorded exactly where BUSY = 1 and the range shares a byte with the running
command's destination (R239); with `k = 0` nothing is emitted or owned. -/
def Obligations.XmitEmitsAndOwns : Prop :=
  ∀ (a : Word) (k : Nat) (mode : XmitMode) (s : State), a.toNat + k ≤ 2 ^ 32 →
    ∃ t, execXmit a k mode s = .next t ∧
      t.line = s.line ++ (if k = 0 then []
        else [.transfer ((s.mem.readBytes a.toNat k).flatMap bitsOf) s.bitClock]) ∧
      t.owned = s.owned ++ (if k = 0 ∨ mode = .sync then [] else [⟨a.toNat, k⟩]) ∧
      (∀ f, f ∈ t.faults ↔ f ∈ s.faults ∨ (f = .transmitWhileBusy ∧ s.block.status.busy = true ∧ 0 < k ∧
        Spec.Shares a.toNat k s.block.dstRange.base s.block.dstRange.size)) ∧
      t.block = s.block ∧ t.mem = s.mem ∧ t.vars = s.vars ∧ t.hpc = s.hpc + 1 ∧ t.program = s.program ∧
      t.bitClock = s.bitClock ∧ t.platform = s.platform ∧ t.agenda = s.agenda ∧ t.draws = s.draws

/-- An `xmit` whose range runs past the last address 0xFFFFFFFF stops: no such byte exists (R50; the model's choice,
log 11). Where BUSY = 1 and the range shares a byte with the running command's destination, TransmitWhileBusy is recorded
(R239), nothing else but `hpc` changes (log 11), and the next step stops there (R213, log 5). -/
def Obligations.XmitPastTheEndStops : Prop :=
  ∀ (a : Word) (k : Nat) (mode : XmitMode) (s : State), 2 ^ 32 < a.toNat + k →
    (¬ (s.block.status.busy = true ∧ Spec.Shares a.toNat k s.block.dstRange.base s.block.dstRange.size) →
      execXmit a k mode s = .fault .outsideAddressSpace) ∧
    (s.block.status.busy = true ∧ Spec.Shares a.toNat k s.block.dstRange.base s.block.dstRange.size →
      ∃ t, execXmit a k mode s = .next t ∧ (∀ f, f ∈ t.faults ↔ f = .transmitWhileBusy ∨ f ∈ s.faults) ∧
        t.block = s.block ∧ t.vars = s.vars ∧ t.hpc = s.hpc + 1 ∧ Spec.Untouched s t ∧
        ∃ f ∈ t.faults, step t = .fault (.modelFault f))

/-- `xwait` goes on exactly when no transfer is in flight, and else holds the host (R184). `settle` always goes on (R67)
and records on the line a delay of T_SETTLE, which exceeds the latch threshold (R84, R189; with a transfer in flight,
log 10). A completion takes one range out of flight, one entry for each transfer (log 8), and changes nothing else
(R184). -/
def Obligations.WaitsEndWhenNothingIsInFlight : Prop :=
  ∀ s : State,
    (s.owned = [] → execXwait s = .next (s.withHpc (s.hpc + 1))) ∧
    (s.owned ≠ [] → execXwait s = .next s) ∧
    execSettle s = .next ((s.withLine (s.line ++ [.settle s.platform.tSettle])).withHpc (s.hpc + 1)) ∧
    s.platform.latch < s.platform.tSettle ∧
    (∀ k (h : k < s.owned.length), (transportStep k s).owned.length + 1 = s.owned.length ∧
      (s.owned[k]'h :: (transportStep k s).owned).Perm s.owned ∧
      (transportStep k s).withOwned s.owned = s)

/-! ### The host's memory statements and branches -/

/-- `mwr` outside the register span (R167, R240, R241, R242): the byte is written and no other byte changes, and the
three hazards are recorded exactly where their rules say. -/
def Obligations.HostWriteAndItsHazards : Prop :=
  ∀ (a : Word) (b : Byte) (s : State), s.mem.wf →
    ¬ (s.platform.regBase.val ≤ a.toNat ∧ a.toNat < s.platform.regBase.val + 0x20) →
    ∃ t, execMwr a b s = .next t ∧ t.mem.read a.toNat = b ∧
      (∀ x, x ≠ a.toNat → t.mem.read x = s.mem.read x) ∧
      (∀ f, f ∈ t.faults ↔ f ∈ s.faults ∨ Spec.WriteHazard s a.toNat f) ∧
      t.block = s.block ∧ t.owned = s.owned ∧ t.line = s.line ∧ t.vars = s.vars ∧ t.hpc = s.hpc + 1 ∧
      t.program = s.program ∧ t.bitClock = s.bitClock ∧ t.platform = s.platform ∧ t.agenda = s.agenda ∧
      t.draws = s.draws

/-- `mrd` outside the register span (R167, R243): it reads the byte; where it is a destination byte of a running
command, the value is that byte's old value or the value the command writes there, whatever the draw; no fault and
no other change, but for the draw counter. -/
def Obligations.HostReadIsOldOrNew : Prop :=
  ∀ (a : Word) (v : Var) (s : State),
    ¬ (s.platform.regBase.val ≤ a.toNat ∧ a.toNat < s.platform.regBase.val + 0x20) →
    ∃ (t : State) (x : Byte), execMrd a v s = .next t ∧ t.vars.get? v = some (x.setWidth 32) ∧
      (x = s.mem.read a.toNat ∨
        (s.block.status.busy = true ∧ s.block.dstRange.Contains a.toNat ∧ check s.platform.span s.block = none ∧
          some x = (body s.block s.mem)[a.toNat - s.block.dstAddr.toNat]?)) ∧
      (∀ u, u ≠ v → t.vars.get? u = s.vars.get? u) ∧
      t.block = s.block ∧ t.mem = s.mem ∧ t.owned = s.owned ∧ t.faults = s.faults ∧ t.hpc = s.hpc + 1 ∧
      t.line = s.line ∧ t.program = s.program ∧ t.bitClock = s.bitClock ∧ t.platform = s.platform ∧
      t.agenda = s.agenda ∧
      t.draws = s.draws + (if s.block.status.busy = true ∧ s.block.dstRange.Contains a.toNat then 1 else 0)

/-- Branches (R168, R84): `bnz` goes to the label where `t & mask` is not 0, `bz` where it is 0, and each else to the
next statement; a variable that nothing has written and a label that the program does not define are refused. -/
def Obligations.BranchesFollowTheMask : Prop :=
  ∀ (v : Var) (mask : Word) (l : Label) (s : State),
    (∀ (w : Word) (n : Nat), s.vars.get? v = some w → labelIndex l s.program = some n →
      execBnz v mask l s = .next (s.withHpc (if w &&& mask ≠ 0#32 then n else s.hpc + 1)) ∧
      execBz v mask l s = .next (s.withHpc (if w &&& mask = 0#32 then n else s.hpc + 1)) ∧
      ∃ line, s.program[n]? = some line ∧ line.label = some l) ∧
    (s.vars.get? v = none → execBnz v mask l s = .refused (.unwrittenVariable v) ∧
      execBz v mask l s = .refused (.unwrittenVariable v)) ∧
    (∀ w : Word, s.vars.get? v = some w → (∀ line ∈ s.program, line.label ≠ some l) →
      execBnz v mask l s = .refused (.undefinedLabel l) ∧ execBz v mask l s = .refused (.undefinedLabel l))

/-- No statement but a bus access touches the block (R167, R168, R180, R184). -/
def Obligations.OtherStatementsLeaveTheBlock : Prop :=
  ∀ (x : Stmt) (s t : State), (∀ a, x ≠ .bus a) → execStmt x s = .next t → t.block = s.block

/-- The pseudo-instructions `setcolor` and `CTRLSET` do what their names say (R85): run while idle, their expansions
leave the color, or the selectors, that they name. -/
def Obligations.PseudoInstructionsSetTheirFields : Prop :=
  ∀ (s : State), s.block.status.busy = false →
    (∀ r g b : Byte, ∃ x t, expandPseudo (.setcolor r g b) = [⟨none, x⟩] ∧ execStmt x s = .next t ∧
      t.block.color = ⟨r, g, b⟩) ∧
    (∀ op sch : BitVec 2, ∃ x t, expandPseudo (.ctrlset op sch) = [⟨none, x⟩] ∧ execStmt x s = .next t ∧
      t.block.op = op ∧ t.block.scheme = sch ∧ t.block.status = s.block.status)

/-! ### Steps, faults and reset -/

/-- A step runs the decoded instruction: where no fault is recorded, it is the host's turn and the statement at `hpc`
is a transaction that decodes to `i`, the step is `exec i`, in the state whose turn has been taken. -/
def Obligations.StepRunsTheDecodedInstruction : Prop :=
  ∀ (s : State) (line : Line) (a : BusAccess) (i : Instr), s.faults = [] → s.nextTurn = .host →
    s.program[s.hpc]? = some line → line.stmt = .bus a → decode a = .ok i → step s = exec i s.takeTurn

/-- An instruction placed where the host runs next is what the very next step runs (how a program comes to run is the
model's choice, log 14). -/
def Obligations.PlacedInstructionRunsNext : Prop :=
  ∀ (s : State) (i : Instr), i.wf = true → s.faults = [] →
    step (s.withFetchAccess (encode i)) =
      exec i (s.withProgram (placeStmt s.program s.hpc (.bus (encode i))))

/-- The turn's step (R11): with no fault recorded, a step is that of the agent or input whose turn it is; with one
recorded, the machine stops at it (R213). Setting the clock sets the bit clock and changes nothing else; no other
turn changes it, and none the platform (R188; log 2, 18). -/
def Obligations.StepIsTheTurnsStep : Prop :=
  ∀ s : State,
    (s.faults ≠ [] → ∃ f ∈ s.faults, step s = .fault (.modelFault f)) ∧
    (s.faults = [] →
      (s.nextTurn = .host → step s = hostStep s.takeTurn) ∧
      (s.nextTurn = .core → step s = .next (coreStep s.takeTurn)) ∧
      (∀ k, s.nextTurn = .transport k → step s = .next (transportStep k s.takeTurn)) ∧
      (s.nextTurn = .reset → step s = .next (blockReset s.takeTurn)) ∧
      (∀ f, s.nextTurn = .setClock f → step s = .next { s.takeTurn with bitClock := f }) ∧
      (s.nextTurn = .glitch → step s = .next (lineGlitch s.takeTurn)) ∧
      (∀ t, step s = .next t → t.platform = s.platform ∧
        ((∀ f, s.nextTurn ≠ .setClock f) → t.bitClock = s.bitClock)))

/-- `faults` starts empty, `fault F` adds F, and no agent's or input's step removes an element of it (R39). -/
def Obligations.FaultsAreNeverRemoved : Prop :=
  State.reset.faults = [] ∧ (∀ (s : State) (f g : ModelFault), g ∈ (s.addFault f).faults ↔ g = f ∨ g ∈ s.faults) ∧
  ∀ (u : Turn) (s t : State), turnStep u s = .next t → ∀ f ∈ s.faults, f ∈ t.faults

/-- The launch state (R230, R234): every register reads 0, memory as the program's start state gives it, no transfer
in flight, no fault, `hpc` 0 and no variable written. The model's reset state is one (log 1, 2, 14). -/
def Obligations.ResetIsTheLaunchState : Prop :=
  (∀ (p : Platform) (m : Memory) (prog : Program), (∀ r : Reg, (State.launch p m prog).block.value r = 0x00000000#32) ∧
    (State.launch p m prog).mem = m ∧ (State.launch p m prog).owned = [] ∧ (State.launch p m prog).faults = [] ∧
    (State.launch p m prog).hpc = 0 ∧ ∀ v : Var, (State.launch p m prog).vars.get? v = none) ∧
  ∃ p m prog, State.reset = State.launch p m prog

/-- The block reset (R230, R231): every register reads 0 afterwards; the transfers in flight, the faults, the host, the
line, the clock, the platform and the turns to come, and while idle every byte of memory and the draw counter, stay. -/
def Obligations.BlockResetClearsTheRegisters : Prop :=
  ∀ s : State, (∀ r : Reg, (blockReset s).block.value r = 0x00000000#32) ∧ (blockReset s).owned = s.owned ∧
    (blockReset s).faults = s.faults ∧ (blockReset s).hpc = s.hpc ∧ (blockReset s).program = s.program ∧
    (blockReset s).vars = s.vars ∧ (blockReset s).line = s.line ∧ (blockReset s).bitClock = s.bitClock ∧
    (blockReset s).platform = s.platform ∧ (blockReset s).agenda = s.agenda ∧
    (s.block.status.busy = false → (blockReset s).draws = s.draws ∧
      ∀ a, (blockReset s).mem.read a = s.mem.read a)

/-- Reset while BUSY (R232): STATUS reads 0 and no command completed; each destination byte is its old value or the
value the command would have written, whatever the draws; every other byte, a BUILDFRAME's source bytes among
them, keeps its value. -/
def Obligations.ResetWhileBusyTearsTheDestination : Prop :=
  ∀ (s : State) (a : Nat), s.mem.wf → s.block.status.busy = true →
    (blockReset s).block.value .status = 0x00000000#32 ∧
    (¬ s.block.dstRange.Contains a → (blockReset s).mem.read a = s.mem.read a) ∧
    (check s.platform.span s.block = none → s.block.srcRange.Contains a →
      (blockReset s).mem.read a = s.mem.read a) ∧
    (s.block.dstRange.Contains a → (blockReset s).mem.read a = s.mem.read a ∨
      (check s.platform.span s.block = none ∧
        some ((blockReset s).mem.read a) = (body s.block s.mem)[a - s.block.dstAddr.toNat]?))

/-! ### Invariants and rules of the whole machine -/

/-- The invariant holds of the launch state on any platform, with any program and any start memory in its canonical
form (R234). -/
def Obligations.LaunchStateHasTheInvariant : Prop :=
  ∀ (p : Platform) (m : Memory) (prog : Program), m.wf → (State.launch p m prog).Inv

/-- Every step keeps the invariant: memory in its canonical form inside the address space, STATUS and BYTE_COUNT in one
of the states a host can see (R31, R32), every transfer in flight non-empty and inside the address space (R182),
and no running command's destination meets a transfer in flight (R240). -/
def Obligations.StepKeepsTheInvariant : Prop :=
  ∀ s t : State, s.Inv → step s = .next t → t.Inv

/-- While a command runs, no step but a reset changes its operands, and BUSY clears only by the core's step (R35,
R142, R162). -/
def Obligations.OperandsAreFrozenWhileBusy : Prop :=
  ∀ s t : State, s.block.status.busy = true → s.nextTurn ≠ .reset → step s = .next t →
    Spec.SameOperands s.block t.block ∧ (t.block.status.busy = false → s.nextTurn = .core)

/-- Who may change a byte of memory in a step: the core, in a running command's destination range; a host `mwr` to
that address; or a reset that abandons a running command, in its destination range (R51, R129, R167, R232). -/
def Obligations.WhoChangesMemory : Prop :=
  ∀ (s t : State) (a : Nat), s.mem.wf → step s = .next t → t.mem.read a ≠ s.mem.read a →
    (s.nextTurn = .core ∧ s.block.status.busy = true ∧ s.block.dstRange.Contains a) ∨
    (s.nextTurn = .host ∧ ∃ line w b, s.program[s.hpc]? = some line ∧ line.stmt = .mwr w b ∧ w.toNat = a) ∨
    (s.nextTurn = .reset ∧ s.block.status.busy = true ∧ s.block.dstRange.Contains a)

/-- The line only grows, and only by the host's own transfers and settles, or by a glitch from outside; no command
transmits (R151, R186). -/
def Obligations.OnlyTheHostDrivesTheLine : Prop :=
  ∀ s t : State, step s = .next t → ∃ e, t.line = s.line ++ e ∧
    (e ≠ [] → (s.nextTurn = .glitch ∧ e = [.glitch]) ∨
      (s.nextTurn = .host ∧ ∃ line, s.program[s.hpc]? = some line ∧
        (line.stmt = .settle ∨ ∃ a k mode, line.stmt = .xmit a k mode)))

/-- No hidden state (R35, R106, R233): two cores that run the same command with the same registers on the same source
bytes end with the same registers and the same faults, and where they complete without error they leave the same
bytes in the destination, whatever the rest of the two states holds. -/
def Obligations.EqualOperandsGiveEqualResults : Prop :=
  ∀ s t : State, s.mem.wf → t.mem.wf → s.platform = t.platform → s.block = t.block → s.faults = t.faults →
    (∀ x, s.block.srcRange.Contains x → s.mem.read x = t.mem.read x) →
    (coreStep s).block = (coreStep t).block ∧ (coreStep s).faults = (coreStep t).faults ∧
    (s.block.status.busy = true → check s.platform.span s.block = none → s.platform.Admits s.block.srcRange →
      s.platform.Admits s.block.dstRange →
      ∀ a, s.block.dstRange.Contains a → (coreStep s).mem.read a = (coreStep t).mem.read a)

/-- On a run in which the core's step is weakly fair, every BUSY window ends (R142, R245). -/
def Obligations.FairRunsLeaveBusy : Prop :=
  ∀ run : Nat → State, IsRun run → CoreFair run → ∀ n, ∃ m, n ≤ m ∧ (run m).block.status.busy = false

/-- On a run in which every transfer in flight completes (weak fairness of the transport's completion step), a host that waits at an `xwait` comes to a state
in which no transfer is in flight, where the `xwait` goes on (R184). -/
def Obligations.FairRunsDrainTheTransport : Prop :=
  ∀ run : Nat → State, IsRun run → TransportFair run → ∀ (n : Nat) (line : Line),
    (run n).program[(run n).hpc]? = some line → line.stmt = .xwait →
    ∃ m, n ≤ m ∧ (run m).owned = [] ∧ (run m).hpc = (run n).hpc ∧ (run m).program = (run n).program
end

