-- ==== Sys2Proof/Laws/Memory.lean ====
section
/-! SUPPORT. The laws of memory and of the host variables: a read after a write, and that every operation keeps the
canonical form. -/

namespace Sys2Proof.Machine

@[simp] theorem Memory.read_nil (a : Nat) : Memory.read [] a = Memory.unlisted := rfl

/-- An address below every listed one is unlisted. -/
theorem Memory.read_of_below {m : Memory} {a : Nat} (h : ∀ c ∈ m, a < c.1) :
    m.read a = Memory.unlisted := by
  induction m with
  | nil => rfl
  | cons c m ih =>
    obtain ⟨a', b⟩ := c
    have ha : a < a' := h (a', b) (by simp)
    rw [Memory.read, if_neg (by omega)]
    exact ih fun c hc => h c (by simp [hc])

/-- Putting a cell in front of the cells above it: that address reads the byte, every other one as before. -/
theorem Memory.read_put {m : Memory} {a : Nat} (b : Byte) (h : ∀ c ∈ m, a < c.1) (x : Nat) :
    (Memory.put a b m).read x = if x = a then b else m.read x := by
  unfold Memory.put
  by_cases hb : b = Memory.unlisted
  · rw [if_pos hb]
    by_cases hx : x = a
    · subst hx
      rw [if_pos rfl, hb]
      exact Memory.read_of_below h
    · rw [if_neg hx]
  · rw [if_neg hb]
    rfl

/-- The tail of a canonical memory lies above its head. -/
theorem Memory.wf_cons {c : Host.Cell} {m : Memory} (h : Memory.wf (c :: m)) :
    Memory.wf m ∧ (∀ d ∈ m, c.1 < d.1) ∧ c.1 < Config.addrLimit ∧ c.2 ≠ Memory.unlisted := by
  obtain ⟨hp, hc⟩ := h
  rw [List.pairwise_cons] at hp
  exact ⟨⟨hp.2, fun d hd => hc d (by simp [hd])⟩, hp.1, hc c (by simp)⟩

theorem Memory.wf_nil : Memory.wf [] := ⟨List.Pairwise.nil, fun _ h => (List.not_mem_nil h).elim⟩

/-- Read after write: the written address reads the byte, every other address as before. -/
theorem Memory.read_write {m : Memory} (h : m.wf) (a : Nat) (b : Byte) (x : Nat) :
    (m.write a b).read x = if x = a then b else m.read x := by
  induction m with
  | nil => exact Memory.read_put b (by simp) x
  | cons c m ih =>
    obtain ⟨a', b'⟩ := c
    obtain ⟨hm, habove, -, -⟩ := Memory.wf_cons h
    by_cases h1 : a < a'
    · rw [Memory.write, if_pos h1]
      refine Memory.read_put b ?_ x
      intro d hd
      rcases List.mem_cons.1 hd with rfl | hd
      · exact h1
      · exact h1.trans (habove d hd)
    · by_cases h2 : a = a'
      · subst h2
        rw [Memory.write, if_neg h1, if_pos rfl, Memory.read_put b habove]
        by_cases hx : x = a <;> simp [hx, Memory.read]
      · rw [Memory.write, if_neg h1, if_neg h2]
        by_cases hx : x = a'
        · subst hx
          simp [Memory.read, show ¬ x = a from fun e => h2 e.symm]
        · simp [Memory.read, hx, ih hm]

/-- Putting a cell in front keeps the canonical form. -/
theorem Memory.wf_put {m : Memory} {a : Nat} (hm : m.wf) (b : Byte) (ha : a < Config.addrLimit)
    (h : ∀ c ∈ m, a < c.1) : (Memory.put a b m).wf := by
  unfold Memory.put
  split_ifs with hb
  · exact hm
  · refine ⟨List.pairwise_cons.2 ⟨h, hm.1⟩, ?_⟩
    intro c hc
    rcases List.mem_cons.1 hc with rfl | hc
    · exact ⟨ha, hb⟩
    · exact hm.2 c hc

/-- Every cell of a written memory is the written one or an old one. -/
theorem Memory.mem_write {m : Memory} {a : Nat} {b : Byte} {c : Host.Cell} (hc : c ∈ m.write a b) :
    c = (a, b) ∨ c ∈ m := by
  induction m with
  | nil =>
    simp only [Memory.write, Memory.put] at hc
    split_ifs at hc <;> simp_all
  | cons d m ih =>
    obtain ⟨a', b'⟩ := d
    simp only [Memory.write, Memory.put] at hc
    split_ifs at hc <;> simp only [List.mem_cons] at hc ⊢ <;> tauto

/-- A byte write keeps the canonical form. -/
theorem Memory.wf_write {m : Memory} (h : m.wf) {a : Nat} (ha : a < Config.addrLimit) (b : Byte) :
    (m.write a b).wf := by
  induction m with
  | nil => exact Memory.wf_put Memory.wf_nil b ha (by simp)
  | cons c m ih =>
    obtain ⟨a', b'⟩ := c
    obtain ⟨hm, habove, ha', hb'⟩ := Memory.wf_cons h
    unfold Memory.write
    split_ifs with h1 h2
    · refine Memory.wf_put h b ha ?_
      intro d hd
      rcases List.mem_cons.1 hd with rfl | hd
      · exact h1
      · exact h1.trans (habove d hd)
    · subst h2
      exact Memory.wf_put hm b ha habove
    · refine ⟨List.pairwise_cons.2 ⟨?_, (ih hm).1⟩, ?_⟩
      · intro d hd
        rcases Memory.mem_write hd with rfl | hd
        · exact lt_of_le_of_ne (Nat.le_of_not_lt h1) (fun e => h2 e.symm)
        · exact habove d hd
      · intro d hd
        rcases List.mem_cons.1 hd with rfl | hd
        · exact ⟨ha', hb'⟩
        · exact (ih hm).2 d hd

/-- Writing bytes inside the address space keeps the canonical form. -/
theorem Memory.wf_writeBytes {m : Memory} (h : m.wf) {a : Nat} {bs : List Byte}
    (ha : a + bs.length ≤ Config.addrLimit) : (m.writeBytes a bs).wf := by
  induction bs generalizing m a with
  | nil => exact h
  | cons b bs ih =>
    simp only [List.length_cons] at ha
    exact ih (Memory.wf_write h (by omega) b) (by omega)

/-- Reading after writing bytes: inside the range the byte written there, outside it as before. -/
theorem Memory.read_writeBytes {m : Memory} (h : m.wf) {a : Nat} {bs : List Byte}
    (ha : a + bs.length ≤ Config.addrLimit) (x : Nat) :
    (m.writeBytes a bs).read x = if a ≤ x then (bs[x - a]?).getD (m.read x) else m.read x := by
  induction bs generalizing m a with
  | nil => simp [Memory.writeBytes]
  | cons b bs ih =>
    simp only [List.length_cons] at ha
    rw [Memory.writeBytes, ih (Memory.wf_write h (by omega) b) (by omega), Memory.read_write h]
    rcases Nat.lt_trichotomy x a with hx | hx | hx
    · simp [show ¬ a ≤ x by omega, show ¬ a + 1 ≤ x by omega, show x ≠ a by omega]
    · subst hx
      simp [show ¬ x + 1 ≤ x by omega]
    · obtain ⟨k, rfl⟩ : ∃ k, x = a + 1 + k := ⟨x - (a + 1), by omega⟩
      simp [show a ≤ a + 1 + k by omega, show a + 1 + k ≠ a by omega,
        show a + 1 + k - a = k + 1 by omega]

/-- Every byte outside the written range reads as before. -/
theorem Memory.read_writeBytes_outside {m : Memory} (h : m.wf) {a : Nat} {bs : List Byte}
    (ha : a + bs.length ≤ Config.addrLimit) {x : Nat} (hx : ¬ (Range.mk a bs.length).Contains x) :
    (m.writeBytes a bs).read x = m.read x := by
  rw [Memory.read_writeBytes h ha]
  by_cases h1 : a ≤ x
  · have : bs.length ≤ x - a := by
      simp only [Range.Contains, not_and, not_lt] at hx
      have := hx h1
      omega
    simp [List.getElem?_eq_none this]
  · simp [h1]

/-- Reading the bytes just written gives them back. -/
theorem Memory.readBytes_writeBytes {m : Memory} (h : m.wf) {a : Nat} {bs : List Byte}
    (ha : a + bs.length ≤ Config.addrLimit) : (m.writeBytes a bs).readBytes a bs.length = bs := by
  refine List.ext_getElem (by simp [Memory.readBytes]) ?_
  intro i h1 h2
  simp [Memory.readBytes, Memory.read_writeBytes h ha, h2]

@[simp] theorem Memory.readBytes_length (m : Memory) (a k : Nat) : (m.readBytes a k).length = k := by
  simp [Memory.readBytes]

/-! ### Host variables -/

/-- Read after write of a host variable. -/
theorem Vars.get?_set (v : Vars) (t : Var) (w : Word) (u : Var) :
    (v.set t w).get? u = if u = t then some w else v.get? u := by
  induction v with
  | nil => by_cases h : u = t <;> simp [Vars.set, Vars.get?, h]
  | cons c v ih =>
    obtain ⟨t', w'⟩ := c
    by_cases h1 : t < t'
    · by_cases h : u = t <;> simp [Vars.set, Vars.get?, h1, h]
    · by_cases h2 : t = t'
      · subst h2
        by_cases h : u = t <;> simp [Vars.set, Vars.get?, h]
      · by_cases h : u = t'
        · subst h
          simp [Vars.set, Vars.get?, h1, h2, show ¬ u = t from fun e => h2 e.symm]
        · simp [Vars.set, Vars.get?, h1, h2, h, ih]

end Sys2Proof.Machine
end

