-- ==== Sys2Proof/Laws/State.lean ====
section
/-! SUPPORT. One lemma for each field of State under each one-field update, all true by rfl, so that no later proof
unfolds a record update. -/

namespace Sys2Proof.Machine

variable (s : State)

/-! ### withBlock -/

@[simp] theorem State.withBlock_block (b : Block) : (s.withBlock b).block = b := rfl
@[simp] theorem State.withBlock_mem (b : Block) : (s.withBlock b).mem = s.mem := rfl
@[simp] theorem State.withBlock_owned (b : Block) : (s.withBlock b).owned = s.owned := rfl
@[simp] theorem State.withBlock_faults (b : Block) : (s.withBlock b).faults = s.faults := rfl
@[simp] theorem State.withBlock_program (b : Block) : (s.withBlock b).program = s.program := rfl
@[simp] theorem State.withBlock_hpc (b : Block) : (s.withBlock b).hpc = s.hpc := rfl
@[simp] theorem State.withBlock_vars (b : Block) : (s.withBlock b).vars = s.vars := rfl
@[simp] theorem State.withBlock_line (b : Block) : (s.withBlock b).line = s.line := rfl
@[simp] theorem State.withBlock_bitClock (b : Block) : (s.withBlock b).bitClock = s.bitClock := rfl
@[simp] theorem State.withBlock_platform (b : Block) : (s.withBlock b).platform = s.platform := rfl
@[simp] theorem State.withBlock_agenda (b : Block) : (s.withBlock b).agenda = s.agenda := rfl
@[simp] theorem State.withBlock_draws (b : Block) : (s.withBlock b).draws = s.draws := rfl

/-! ### withMem -/

@[simp] theorem State.withMem_block (m : Memory) : (s.withMem m).block = s.block := rfl
@[simp] theorem State.withMem_mem (m : Memory) : (s.withMem m).mem = m := rfl
@[simp] theorem State.withMem_owned (m : Memory) : (s.withMem m).owned = s.owned := rfl
@[simp] theorem State.withMem_faults (m : Memory) : (s.withMem m).faults = s.faults := rfl
@[simp] theorem State.withMem_program (m : Memory) : (s.withMem m).program = s.program := rfl
@[simp] theorem State.withMem_hpc (m : Memory) : (s.withMem m).hpc = s.hpc := rfl
@[simp] theorem State.withMem_vars (m : Memory) : (s.withMem m).vars = s.vars := rfl
@[simp] theorem State.withMem_line (m : Memory) : (s.withMem m).line = s.line := rfl
@[simp] theorem State.withMem_bitClock (m : Memory) : (s.withMem m).bitClock = s.bitClock := rfl
@[simp] theorem State.withMem_platform (m : Memory) : (s.withMem m).platform = s.platform := rfl
@[simp] theorem State.withMem_agenda (m : Memory) : (s.withMem m).agenda = s.agenda := rfl
@[simp] theorem State.withMem_draws (m : Memory) : (s.withMem m).draws = s.draws := rfl

/-! ### withOwned -/

@[simp] theorem State.withOwned_block (o : List Range) : (s.withOwned o).block = s.block := rfl
@[simp] theorem State.withOwned_mem (o : List Range) : (s.withOwned o).mem = s.mem := rfl
@[simp] theorem State.withOwned_owned (o : List Range) : (s.withOwned o).owned = o := rfl
@[simp] theorem State.withOwned_faults (o : List Range) : (s.withOwned o).faults = s.faults := rfl
@[simp] theorem State.withOwned_program (o : List Range) : (s.withOwned o).program = s.program := rfl
@[simp] theorem State.withOwned_hpc (o : List Range) : (s.withOwned o).hpc = s.hpc := rfl
@[simp] theorem State.withOwned_vars (o : List Range) : (s.withOwned o).vars = s.vars := rfl
@[simp] theorem State.withOwned_line (o : List Range) : (s.withOwned o).line = s.line := rfl
@[simp] theorem State.withOwned_bitClock (o : List Range) : (s.withOwned o).bitClock = s.bitClock := rfl
@[simp] theorem State.withOwned_platform (o : List Range) : (s.withOwned o).platform = s.platform := rfl
@[simp] theorem State.withOwned_agenda (o : List Range) : (s.withOwned o).agenda = s.agenda := rfl
@[simp] theorem State.withOwned_draws (o : List Range) : (s.withOwned o).draws = s.draws := rfl

/-! ### withFaults -/

@[simp] theorem State.withFaults_block (f : List ModelFault) : (s.withFaults f).block = s.block := rfl
@[simp] theorem State.withFaults_mem (f : List ModelFault) : (s.withFaults f).mem = s.mem := rfl
@[simp] theorem State.withFaults_owned (f : List ModelFault) : (s.withFaults f).owned = s.owned := rfl
@[simp] theorem State.withFaults_faults (f : List ModelFault) : (s.withFaults f).faults = f := rfl
@[simp] theorem State.withFaults_program (f : List ModelFault) : (s.withFaults f).program = s.program := rfl
@[simp] theorem State.withFaults_hpc (f : List ModelFault) : (s.withFaults f).hpc = s.hpc := rfl
@[simp] theorem State.withFaults_vars (f : List ModelFault) : (s.withFaults f).vars = s.vars := rfl
@[simp] theorem State.withFaults_line (f : List ModelFault) : (s.withFaults f).line = s.line := rfl
@[simp] theorem State.withFaults_bitClock (f : List ModelFault) : (s.withFaults f).bitClock = s.bitClock := rfl
@[simp] theorem State.withFaults_platform (f : List ModelFault) : (s.withFaults f).platform = s.platform := rfl
@[simp] theorem State.withFaults_agenda (f : List ModelFault) : (s.withFaults f).agenda = s.agenda := rfl
@[simp] theorem State.withFaults_draws (f : List ModelFault) : (s.withFaults f).draws = s.draws := rfl

/-! ### withProgram -/

@[simp] theorem State.withProgram_block (p : Program) : (s.withProgram p).block = s.block := rfl
@[simp] theorem State.withProgram_mem (p : Program) : (s.withProgram p).mem = s.mem := rfl
@[simp] theorem State.withProgram_owned (p : Program) : (s.withProgram p).owned = s.owned := rfl
@[simp] theorem State.withProgram_faults (p : Program) : (s.withProgram p).faults = s.faults := rfl
@[simp] theorem State.withProgram_program (p : Program) : (s.withProgram p).program = p := rfl
@[simp] theorem State.withProgram_hpc (p : Program) : (s.withProgram p).hpc = s.hpc := rfl
@[simp] theorem State.withProgram_vars (p : Program) : (s.withProgram p).vars = s.vars := rfl
@[simp] theorem State.withProgram_line (p : Program) : (s.withProgram p).line = s.line := rfl
@[simp] theorem State.withProgram_bitClock (p : Program) : (s.withProgram p).bitClock = s.bitClock := rfl
@[simp] theorem State.withProgram_platform (p : Program) : (s.withProgram p).platform = s.platform := rfl
@[simp] theorem State.withProgram_agenda (p : Program) : (s.withProgram p).agenda = s.agenda := rfl
@[simp] theorem State.withProgram_draws (p : Program) : (s.withProgram p).draws = s.draws := rfl

/-! ### withHpc -/

@[simp] theorem State.withHpc_block (n : Nat) : (s.withHpc n).block = s.block := rfl
@[simp] theorem State.withHpc_mem (n : Nat) : (s.withHpc n).mem = s.mem := rfl
@[simp] theorem State.withHpc_owned (n : Nat) : (s.withHpc n).owned = s.owned := rfl
@[simp] theorem State.withHpc_faults (n : Nat) : (s.withHpc n).faults = s.faults := rfl
@[simp] theorem State.withHpc_program (n : Nat) : (s.withHpc n).program = s.program := rfl
@[simp] theorem State.withHpc_hpc (n : Nat) : (s.withHpc n).hpc = n := rfl
@[simp] theorem State.withHpc_vars (n : Nat) : (s.withHpc n).vars = s.vars := rfl
@[simp] theorem State.withHpc_line (n : Nat) : (s.withHpc n).line = s.line := rfl
@[simp] theorem State.withHpc_bitClock (n : Nat) : (s.withHpc n).bitClock = s.bitClock := rfl
@[simp] theorem State.withHpc_platform (n : Nat) : (s.withHpc n).platform = s.platform := rfl
@[simp] theorem State.withHpc_agenda (n : Nat) : (s.withHpc n).agenda = s.agenda := rfl
@[simp] theorem State.withHpc_draws (n : Nat) : (s.withHpc n).draws = s.draws := rfl

/-! ### withVars -/

@[simp] theorem State.withVars_block (v : Vars) : (s.withVars v).block = s.block := rfl
@[simp] theorem State.withVars_mem (v : Vars) : (s.withVars v).mem = s.mem := rfl
@[simp] theorem State.withVars_owned (v : Vars) : (s.withVars v).owned = s.owned := rfl
@[simp] theorem State.withVars_faults (v : Vars) : (s.withVars v).faults = s.faults := rfl
@[simp] theorem State.withVars_program (v : Vars) : (s.withVars v).program = s.program := rfl
@[simp] theorem State.withVars_hpc (v : Vars) : (s.withVars v).hpc = s.hpc := rfl
@[simp] theorem State.withVars_vars (v : Vars) : (s.withVars v).vars = v := rfl
@[simp] theorem State.withVars_line (v : Vars) : (s.withVars v).line = s.line := rfl
@[simp] theorem State.withVars_bitClock (v : Vars) : (s.withVars v).bitClock = s.bitClock := rfl
@[simp] theorem State.withVars_platform (v : Vars) : (s.withVars v).platform = s.platform := rfl
@[simp] theorem State.withVars_agenda (v : Vars) : (s.withVars v).agenda = s.agenda := rfl
@[simp] theorem State.withVars_draws (v : Vars) : (s.withVars v).draws = s.draws := rfl

/-! ### withLine -/

@[simp] theorem State.withLine_block (l : List LineEvent) : (s.withLine l).block = s.block := rfl
@[simp] theorem State.withLine_mem (l : List LineEvent) : (s.withLine l).mem = s.mem := rfl
@[simp] theorem State.withLine_owned (l : List LineEvent) : (s.withLine l).owned = s.owned := rfl
@[simp] theorem State.withLine_faults (l : List LineEvent) : (s.withLine l).faults = s.faults := rfl
@[simp] theorem State.withLine_program (l : List LineEvent) : (s.withLine l).program = s.program := rfl
@[simp] theorem State.withLine_hpc (l : List LineEvent) : (s.withLine l).hpc = s.hpc := rfl
@[simp] theorem State.withLine_vars (l : List LineEvent) : (s.withLine l).vars = s.vars := rfl
@[simp] theorem State.withLine_line (l : List LineEvent) : (s.withLine l).line = l := rfl
@[simp] theorem State.withLine_bitClock (l : List LineEvent) : (s.withLine l).bitClock = s.bitClock := rfl
@[simp] theorem State.withLine_platform (l : List LineEvent) : (s.withLine l).platform = s.platform := rfl
@[simp] theorem State.withLine_agenda (l : List LineEvent) : (s.withLine l).agenda = s.agenda := rfl
@[simp] theorem State.withLine_draws (l : List LineEvent) : (s.withLine l).draws = s.draws := rfl

/-! ### withBitClock -/

@[simp] theorem State.withBitClock_block (f : Nat) : (s.withBitClock f).block = s.block := rfl
@[simp] theorem State.withBitClock_mem (f : Nat) : (s.withBitClock f).mem = s.mem := rfl
@[simp] theorem State.withBitClock_owned (f : Nat) : (s.withBitClock f).owned = s.owned := rfl
@[simp] theorem State.withBitClock_faults (f : Nat) : (s.withBitClock f).faults = s.faults := rfl
@[simp] theorem State.withBitClock_program (f : Nat) : (s.withBitClock f).program = s.program := rfl
@[simp] theorem State.withBitClock_hpc (f : Nat) : (s.withBitClock f).hpc = s.hpc := rfl
@[simp] theorem State.withBitClock_vars (f : Nat) : (s.withBitClock f).vars = s.vars := rfl
@[simp] theorem State.withBitClock_line (f : Nat) : (s.withBitClock f).line = s.line := rfl
@[simp] theorem State.withBitClock_bitClock (f : Nat) : (s.withBitClock f).bitClock = f := rfl
@[simp] theorem State.withBitClock_platform (f : Nat) : (s.withBitClock f).platform = s.platform := rfl
@[simp] theorem State.withBitClock_agenda (f : Nat) : (s.withBitClock f).agenda = s.agenda := rfl
@[simp] theorem State.withBitClock_draws (f : Nat) : (s.withBitClock f).draws = s.draws := rfl

/-! ### withAgenda -/

@[simp] theorem State.withAgenda_block (ts : List Turn) : (s.withAgenda ts).block = s.block := rfl
@[simp] theorem State.withAgenda_mem (ts : List Turn) : (s.withAgenda ts).mem = s.mem := rfl
@[simp] theorem State.withAgenda_owned (ts : List Turn) : (s.withAgenda ts).owned = s.owned := rfl
@[simp] theorem State.withAgenda_faults (ts : List Turn) : (s.withAgenda ts).faults = s.faults := rfl
@[simp] theorem State.withAgenda_program (ts : List Turn) : (s.withAgenda ts).program = s.program := rfl
@[simp] theorem State.withAgenda_hpc (ts : List Turn) : (s.withAgenda ts).hpc = s.hpc := rfl
@[simp] theorem State.withAgenda_vars (ts : List Turn) : (s.withAgenda ts).vars = s.vars := rfl
@[simp] theorem State.withAgenda_line (ts : List Turn) : (s.withAgenda ts).line = s.line := rfl
@[simp] theorem State.withAgenda_bitClock (ts : List Turn) : (s.withAgenda ts).bitClock = s.bitClock := rfl
@[simp] theorem State.withAgenda_platform (ts : List Turn) : (s.withAgenda ts).platform = s.platform := rfl
@[simp] theorem State.withAgenda_agenda (ts : List Turn) : (s.withAgenda ts).agenda = ts := rfl
@[simp] theorem State.withAgenda_draws (ts : List Turn) : (s.withAgenda ts).draws = s.draws := rfl

/-! ### withDraws -/

@[simp] theorem State.withDraws_block (n : Nat) : (s.withDraws n).block = s.block := rfl
@[simp] theorem State.withDraws_mem (n : Nat) : (s.withDraws n).mem = s.mem := rfl
@[simp] theorem State.withDraws_owned (n : Nat) : (s.withDraws n).owned = s.owned := rfl
@[simp] theorem State.withDraws_faults (n : Nat) : (s.withDraws n).faults = s.faults := rfl
@[simp] theorem State.withDraws_program (n : Nat) : (s.withDraws n).program = s.program := rfl
@[simp] theorem State.withDraws_hpc (n : Nat) : (s.withDraws n).hpc = s.hpc := rfl
@[simp] theorem State.withDraws_vars (n : Nat) : (s.withDraws n).vars = s.vars := rfl
@[simp] theorem State.withDraws_line (n : Nat) : (s.withDraws n).line = s.line := rfl
@[simp] theorem State.withDraws_bitClock (n : Nat) : (s.withDraws n).bitClock = s.bitClock := rfl
@[simp] theorem State.withDraws_platform (n : Nat) : (s.withDraws n).platform = s.platform := rfl
@[simp] theorem State.withDraws_agenda (n : Nat) : (s.withDraws n).agenda = s.agenda := rfl
@[simp] theorem State.withDraws_draws (n : Nat) : (s.withDraws n).draws = n := rfl

end Sys2Proof.Machine
end

