-- ==== Sys2Proof/Laws/Ops.lean ====
section
/-! SUPPORT. What each shared operation does, field by field: the simp lemmas of the operations that update one
field, and the lemmas of those that branch. -/

namespace Sys2Proof.Machine

variable (s : State)

/-! ### addFault -/

@[simp] theorem State.addFault_block (f : ModelFault) : (s.addFault f).block = s.block := rfl
@[simp] theorem State.addFault_mem (f : ModelFault) : (s.addFault f).mem = s.mem := rfl
@[simp] theorem State.addFault_owned (f : ModelFault) : (s.addFault f).owned = s.owned := rfl
@[simp] theorem State.addFault_faults (f : ModelFault) : (s.addFault f).faults = ModelFault.insert f s.faults := rfl
@[simp] theorem State.addFault_program (f : ModelFault) : (s.addFault f).program = s.program := rfl
@[simp] theorem State.addFault_hpc (f : ModelFault) : (s.addFault f).hpc = s.hpc := rfl
@[simp] theorem State.addFault_vars (f : ModelFault) : (s.addFault f).vars = s.vars := rfl
@[simp] theorem State.addFault_line (f : ModelFault) : (s.addFault f).line = s.line := rfl
@[simp] theorem State.addFault_bitClock (f : ModelFault) : (s.addFault f).bitClock = s.bitClock := rfl
@[simp] theorem State.addFault_platform (f : ModelFault) : (s.addFault f).platform = s.platform := rfl
@[simp] theorem State.addFault_agenda (f : ModelFault) : (s.addFault f).agenda = s.agenda := rfl
@[simp] theorem State.addFault_draws (f : ModelFault) : (s.addFault f).draws = s.draws := rfl

/-! ### advance -/

@[simp] theorem State.advance_block : (s.advance).block = s.block := rfl
@[simp] theorem State.advance_mem : (s.advance).mem = s.mem := rfl
@[simp] theorem State.advance_owned : (s.advance).owned = s.owned := rfl
@[simp] theorem State.advance_faults : (s.advance).faults = s.faults := rfl
@[simp] theorem State.advance_program : (s.advance).program = s.program := rfl
@[simp] theorem State.advance_hpc : (s.advance).hpc = s.hpc + 1 := rfl
@[simp] theorem State.advance_vars : (s.advance).vars = s.vars := rfl
@[simp] theorem State.advance_line : (s.advance).line = s.line := rfl
@[simp] theorem State.advance_bitClock : (s.advance).bitClock = s.bitClock := rfl
@[simp] theorem State.advance_platform : (s.advance).platform = s.platform := rfl
@[simp] theorem State.advance_agenda : (s.advance).agenda = s.agenda := rfl
@[simp] theorem State.advance_draws : (s.advance).draws = s.draws := rfl

/-! ### setVar -/

@[simp] theorem State.setVar_block (t : Var) (w : Word) : (s.setVar t w).block = s.block := rfl
@[simp] theorem State.setVar_mem (t : Var) (w : Word) : (s.setVar t w).mem = s.mem := rfl
@[simp] theorem State.setVar_owned (t : Var) (w : Word) : (s.setVar t w).owned = s.owned := rfl
@[simp] theorem State.setVar_faults (t : Var) (w : Word) : (s.setVar t w).faults = s.faults := rfl
@[simp] theorem State.setVar_program (t : Var) (w : Word) : (s.setVar t w).program = s.program := rfl
@[simp] theorem State.setVar_hpc (t : Var) (w : Word) : (s.setVar t w).hpc = s.hpc := rfl
@[simp] theorem State.setVar_vars (t : Var) (w : Word) : (s.setVar t w).vars = s.vars.set t w := rfl
@[simp] theorem State.setVar_line (t : Var) (w : Word) : (s.setVar t w).line = s.line := rfl
@[simp] theorem State.setVar_bitClock (t : Var) (w : Word) : (s.setVar t w).bitClock = s.bitClock := rfl
@[simp] theorem State.setVar_platform (t : Var) (w : Word) : (s.setVar t w).platform = s.platform := rfl
@[simp] theorem State.setVar_agenda (t : Var) (w : Word) : (s.setVar t w).agenda = s.agenda := rfl
@[simp] theorem State.setVar_draws (t : Var) (w : Word) : (s.setVar t w).draws = s.draws := rfl

/-! ### emit -/

@[simp] theorem State.emit_block (e : LineEvent) : (s.emit e).block = s.block := rfl
@[simp] theorem State.emit_mem (e : LineEvent) : (s.emit e).mem = s.mem := rfl
@[simp] theorem State.emit_owned (e : LineEvent) : (s.emit e).owned = s.owned := rfl
@[simp] theorem State.emit_faults (e : LineEvent) : (s.emit e).faults = s.faults := rfl
@[simp] theorem State.emit_program (e : LineEvent) : (s.emit e).program = s.program := rfl
@[simp] theorem State.emit_hpc (e : LineEvent) : (s.emit e).hpc = s.hpc := rfl
@[simp] theorem State.emit_vars (e : LineEvent) : (s.emit e).vars = s.vars := rfl
@[simp] theorem State.emit_line (e : LineEvent) : (s.emit e).line = s.line ++ [e] := rfl
@[simp] theorem State.emit_bitClock (e : LineEvent) : (s.emit e).bitClock = s.bitClock := rfl
@[simp] theorem State.emit_platform (e : LineEvent) : (s.emit e).platform = s.platform := rfl
@[simp] theorem State.emit_agenda (e : LineEvent) : (s.emit e).agenda = s.agenda := rfl
@[simp] theorem State.emit_draws (e : LineEvent) : (s.emit e).draws = s.draws := rfl

/-! ### complete -/

@[simp] theorem State.complete_block (e : Option CmdError) (n : Nat) : (s.complete e n).block = { s.block with status := s.block.status.completed e, byteCount := BitVec.ofNat 32 n } := rfl
@[simp] theorem State.complete_mem (e : Option CmdError) (n : Nat) : (s.complete e n).mem = s.mem := rfl
@[simp] theorem State.complete_owned (e : Option CmdError) (n : Nat) : (s.complete e n).owned = s.owned := rfl
@[simp] theorem State.complete_faults (e : Option CmdError) (n : Nat) : (s.complete e n).faults = s.faults := rfl
@[simp] theorem State.complete_program (e : Option CmdError) (n : Nat) : (s.complete e n).program = s.program := rfl
@[simp] theorem State.complete_hpc (e : Option CmdError) (n : Nat) : (s.complete e n).hpc = s.hpc := rfl
@[simp] theorem State.complete_vars (e : Option CmdError) (n : Nat) : (s.complete e n).vars = s.vars := rfl
@[simp] theorem State.complete_line (e : Option CmdError) (n : Nat) : (s.complete e n).line = s.line := rfl
@[simp] theorem State.complete_bitClock (e : Option CmdError) (n : Nat) : (s.complete e n).bitClock = s.bitClock := rfl
@[simp] theorem State.complete_platform (e : Option CmdError) (n : Nat) : (s.complete e n).platform = s.platform := rfl
@[simp] theorem State.complete_agenda (e : Option CmdError) (n : Nat) : (s.complete e n).agenda = s.agenda := rfl
@[simp] theorem State.complete_draws (e : Option CmdError) (n : Nat) : (s.complete e n).draws = s.draws := rfl

/-! ### ignoreWrite -/

@[simp] theorem State.ignoreWrite_block : (s.ignoreWrite).block = { s.block with status := { s.block.status with ignored := true } } := rfl
@[simp] theorem State.ignoreWrite_mem : (s.ignoreWrite).mem = s.mem := rfl
@[simp] theorem State.ignoreWrite_owned : (s.ignoreWrite).owned = s.owned := rfl
@[simp] theorem State.ignoreWrite_faults : (s.ignoreWrite).faults = s.faults := rfl
@[simp] theorem State.ignoreWrite_program : (s.ignoreWrite).program = s.program := rfl
@[simp] theorem State.ignoreWrite_hpc : (s.ignoreWrite).hpc = s.hpc := rfl
@[simp] theorem State.ignoreWrite_vars : (s.ignoreWrite).vars = s.vars := rfl
@[simp] theorem State.ignoreWrite_line : (s.ignoreWrite).line = s.line := rfl
@[simp] theorem State.ignoreWrite_bitClock : (s.ignoreWrite).bitClock = s.bitClock := rfl
@[simp] theorem State.ignoreWrite_platform : (s.ignoreWrite).platform = s.platform := rfl
@[simp] theorem State.ignoreWrite_agenda : (s.ignoreWrite).agenda = s.agenda := rfl
@[simp] theorem State.ignoreWrite_draws : (s.ignoreWrite).draws = s.draws := rfl

/-! ### setSelectors -/

@[simp] theorem State.setSelectors_block (sch op : BitVec 2) : (s.setSelectors sch op).block = s.block.withSelectors sch op := rfl
@[simp] theorem State.setSelectors_mem (sch op : BitVec 2) : (s.setSelectors sch op).mem = s.mem := rfl
@[simp] theorem State.setSelectors_owned (sch op : BitVec 2) : (s.setSelectors sch op).owned = s.owned := rfl
@[simp] theorem State.setSelectors_faults (sch op : BitVec 2) : (s.setSelectors sch op).faults = s.faults := rfl
@[simp] theorem State.setSelectors_program (sch op : BitVec 2) : (s.setSelectors sch op).program = s.program := rfl
@[simp] theorem State.setSelectors_hpc (sch op : BitVec 2) : (s.setSelectors sch op).hpc = s.hpc := rfl
@[simp] theorem State.setSelectors_vars (sch op : BitVec 2) : (s.setSelectors sch op).vars = s.vars := rfl
@[simp] theorem State.setSelectors_line (sch op : BitVec 2) : (s.setSelectors sch op).line = s.line := rfl
@[simp] theorem State.setSelectors_bitClock (sch op : BitVec 2) : (s.setSelectors sch op).bitClock = s.bitClock := rfl
@[simp] theorem State.setSelectors_platform (sch op : BitVec 2) : (s.setSelectors sch op).platform = s.platform := rfl
@[simp] theorem State.setSelectors_agenda (sch op : BitVec 2) : (s.setSelectors sch op).agenda = s.agenda := rfl
@[simp] theorem State.setSelectors_draws (sch op : BitVec 2) : (s.setSelectors sch op).draws = s.draws := rfl

/-! ### faultIf -/

@[simp] theorem State.faultIf_block (p : Prop) [Decidable p] (f : ModelFault) :
    (s.faultIf p f).block = s.block := by
  unfold State.faultIf; split <;> rfl
@[simp] theorem State.faultIf_mem (p : Prop) [Decidable p] (f : ModelFault) :
    (s.faultIf p f).mem = s.mem := by
  unfold State.faultIf; split <;> rfl
@[simp] theorem State.faultIf_owned (p : Prop) [Decidable p] (f : ModelFault) :
    (s.faultIf p f).owned = s.owned := by
  unfold State.faultIf; split <;> rfl
@[simp] theorem State.faultIf_faults (p : Prop) [Decidable p] (f : ModelFault) :
    (s.faultIf p f).faults = if p then ModelFault.insert f s.faults else s.faults := by
  unfold State.faultIf; split <;> rfl
@[simp] theorem State.faultIf_program (p : Prop) [Decidable p] (f : ModelFault) :
    (s.faultIf p f).program = s.program := by
  unfold State.faultIf; split <;> rfl
@[simp] theorem State.faultIf_hpc (p : Prop) [Decidable p] (f : ModelFault) :
    (s.faultIf p f).hpc = s.hpc := by
  unfold State.faultIf; split <;> rfl
@[simp] theorem State.faultIf_vars (p : Prop) [Decidable p] (f : ModelFault) :
    (s.faultIf p f).vars = s.vars := by
  unfold State.faultIf; split <;> rfl
@[simp] theorem State.faultIf_line (p : Prop) [Decidable p] (f : ModelFault) :
    (s.faultIf p f).line = s.line := by
  unfold State.faultIf; split <;> rfl
@[simp] theorem State.faultIf_bitClock (p : Prop) [Decidable p] (f : ModelFault) :
    (s.faultIf p f).bitClock = s.bitClock := by
  unfold State.faultIf; split <;> rfl
@[simp] theorem State.faultIf_platform (p : Prop) [Decidable p] (f : ModelFault) :
    (s.faultIf p f).platform = s.platform := by
  unfold State.faultIf; split <;> rfl
@[simp] theorem State.faultIf_agenda (p : Prop) [Decidable p] (f : ModelFault) :
    (s.faultIf p f).agenda = s.agenda := by
  unfold State.faultIf; split <;> rfl
@[simp] theorem State.faultIf_draws (p : Prop) [Decidable p] (f : ModelFault) :
    (s.faultIf p f).draws = s.draws := by
  unfold State.faultIf; split <;> rfl

/-! ### accept -/

@[simp] theorem State.accept_block (sch op : BitVec 2) :
    (s.accept sch op).block =
      { s.block.withSelectors sch op with status := Status.accepted, byteCount := 0#32 } := by
  simp [State.accept]
@[simp] theorem State.accept_mem (sch op : BitVec 2) : (s.accept sch op).mem = s.mem := by
  simp [State.accept]
@[simp] theorem State.accept_owned (sch op : BitVec 2) : (s.accept sch op).owned = s.owned := by
  simp [State.accept]
theorem State.accept_faults (sch op : BitVec 2) :
    (s.accept sch op).faults =
      if s.Owns (s.block.withSelectors sch op).dstRange then
        ModelFault.insert .dstOwnedByTransport s.faults else s.faults := by
  simp [State.accept]
@[simp] theorem State.accept_program (sch op : BitVec 2) : (s.accept sch op).program = s.program := by
  simp [State.accept]
@[simp] theorem State.accept_hpc (sch op : BitVec 2) : (s.accept sch op).hpc = s.hpc := by
  simp [State.accept]
@[simp] theorem State.accept_vars (sch op : BitVec 2) : (s.accept sch op).vars = s.vars := by
  simp [State.accept]
@[simp] theorem State.accept_line (sch op : BitVec 2) : (s.accept sch op).line = s.line := by
  simp [State.accept]
@[simp] theorem State.accept_bitClock (sch op : BitVec 2) : (s.accept sch op).bitClock = s.bitClock := by
  simp [State.accept]
@[simp] theorem State.accept_platform (sch op : BitVec 2) : (s.accept sch op).platform = s.platform := by
  simp [State.accept]
@[simp] theorem State.accept_agenda (sch op : BitVec 2) : (s.accept sch op).agenda = s.agenda := by
  simp [State.accept]
@[simp] theorem State.accept_draws (sch op : BitVec 2) : (s.accept sch op).draws = s.draws := by
  simp [State.accept]

/-! ### writeHazards -/

@[simp] theorem State.writeHazards_block (a : Nat) : (s.writeHazards a).block = s.block := by
  simp [State.writeHazards]
@[simp] theorem State.writeHazards_mem (a : Nat) : (s.writeHazards a).mem = s.mem := by
  simp [State.writeHazards]
@[simp] theorem State.writeHazards_owned (a : Nat) : (s.writeHazards a).owned = s.owned := by
  simp [State.writeHazards]
@[simp] theorem State.writeHazards_program (a : Nat) : (s.writeHazards a).program = s.program := by
  simp [State.writeHazards]
@[simp] theorem State.writeHazards_hpc (a : Nat) : (s.writeHazards a).hpc = s.hpc := by
  simp [State.writeHazards]
@[simp] theorem State.writeHazards_vars (a : Nat) : (s.writeHazards a).vars = s.vars := by
  simp [State.writeHazards]
@[simp] theorem State.writeHazards_line (a : Nat) : (s.writeHazards a).line = s.line := by
  simp [State.writeHazards]
@[simp] theorem State.writeHazards_bitClock (a : Nat) : (s.writeHazards a).bitClock = s.bitClock := by
  simp [State.writeHazards]
@[simp] theorem State.writeHazards_platform (a : Nat) : (s.writeHazards a).platform = s.platform := by
  simp [State.writeHazards]
@[simp] theorem State.writeHazards_agenda (a : Nat) : (s.writeHazards a).agenda = s.agenda := by
  simp [State.writeHazards]
@[simp] theorem State.writeHazards_draws (a : Nat) : (s.writeHazards a).draws = s.draws := by
  simp [State.writeHazards]

/-! ### takeTurn -/

@[simp] theorem State.takeTurn_block : s.takeTurn.block = s.block := by
  unfold State.takeTurn; split <;> rfl
@[simp] theorem State.takeTurn_mem : s.takeTurn.mem = s.mem := by
  unfold State.takeTurn; split <;> rfl
@[simp] theorem State.takeTurn_owned : s.takeTurn.owned = s.owned := by
  unfold State.takeTurn; split <;> rfl
@[simp] theorem State.takeTurn_faults : s.takeTurn.faults = s.faults := by
  unfold State.takeTurn; split <;> rfl
@[simp] theorem State.takeTurn_program : s.takeTurn.program = s.program := by
  unfold State.takeTurn; split <;> rfl
@[simp] theorem State.takeTurn_hpc : s.takeTurn.hpc = s.hpc := by
  unfold State.takeTurn; split <;> rfl
@[simp] theorem State.takeTurn_vars : s.takeTurn.vars = s.vars := by
  unfold State.takeTurn; split <;> rfl
@[simp] theorem State.takeTurn_line : s.takeTurn.line = s.line := by
  unfold State.takeTurn; split <;> rfl
@[simp] theorem State.takeTurn_bitClock : s.takeTurn.bitClock = s.bitClock := by
  unfold State.takeTurn; split <;> rfl
@[simp] theorem State.takeTurn_platform : s.takeTurn.platform = s.platform := by
  unfold State.takeTurn; split <;> rfl

/-! ### The set of recorded faults -/

/-- Inserting a fault adds it and removes nothing (R39, R212). -/
@[simp] theorem ModelFault.mem_insert (f g : ModelFault) (fs : List ModelFault) :
    g ∈ ModelFault.insert f fs ↔ g = f ∨ g ∈ fs := by
  simp only [ModelFault.insert, List.mem_filter, decide_eq_true_eq, and_iff_right_iff_imp]
  intro _
  cases g <;> simp [ModelFault.all]

/-- After a fault is recorded, some fault is. -/
@[simp] theorem ModelFault.insert_ne_nil (f : ModelFault) (fs : List ModelFault) :
    ModelFault.insert f fs ≠ [] :=
  List.ne_nil_of_mem ((ModelFault.mem_insert f f fs).2 (Or.inl rfl))

/-- A recorded fault stops the machine (R213). -/
theorem step_of_faulted {s : State} (h : s.faults ≠ []) : ∃ f ∈ s.faults, step s = .fault (.modelFault f) := by
  obtain ⟨f, fs, hf⟩ := List.exists_cons_of_ne_nil h
  exact ⟨f, by simp [hf], by simp [step, hf]⟩

/-- With no fault recorded, a step is the step of whose turn it is (R11). -/
theorem step_of_faultless {s : State} (h : s.faults = []) : step s = turnStep s.nextTurn s.takeTurn := by
  simp [step, h]

/-- A step that goes on is some turn's step, in a state with no recorded fault. -/
theorem step_next {s t : State} (h : step s = .next t) :
    s.faults = [] ∧ turnStep s.nextTurn s.takeTurn = .next t := by
  unfold step at h
  split at h
  · cases h
  · exact ⟨‹_›, h⟩

end Sys2Proof.Machine
end

