-- ==== Sys2Proof/Laws/Commands.lean ====
section
/-! SUPPORT. The sizes of what the encoders and the commands' bodies produce, what a passed check says, and what the
core's step can do. -/

namespace Sys2Proof.Machine

/-! ### Sizes -/

theorem chan3_length (v : Byte) : (chan3 v).length = 3 := by
  have h : ∀ (rows : List (Nat × Nat × Byte)) (o : List Byte),
      (rows.foldl (perm3Step v) o).length = o.length := by
    intro rows
    induction rows with
    | nil => simp
    | cons r rows ih =>
      intro o
      rw [List.foldl_cons, ih]
      unfold perm3Step
      split <;> simp
  simp [chan3, h, skeleton3]

theorem chan4_length (v : Byte) : (chan4 v).length = 4 := by simp [chan4]

theorem chan_length (s : Scheme) (v : Byte) : (chan s v).length = s.factor := by
  cases s
  · exact chan3_length v
  · exact chan4_length v

theorem encodeColor_eq (s : Scheme) (c : Color) :
    encodeColor s c = chan s c.green ++ (chan s c.red ++ chan s c.blue) := by
  simp [encodeColor, grb]

theorem encodeColor_length (s : Scheme) (c : Color) : (encodeColor s c).length = s.bytesPerColor := by
  simp [encodeColor_eq, chan_length, Scheme.bytesPerColor]
  omega

theorem flatMap_encodeColor_length (s : Scheme) (cs : List Color) :
    (cs.flatMap (encodeColor s)).length = s.bytesPerColor * cs.length := by
  induction cs with
  | nil => simp
  | cons c cs ih => simp [encodeColor_length, ih, Nat.mul_add]; omega

theorem colorSeq_length (m : Memory) (src n : Nat) : (colorSeq m src n).length = n := by simp [colorSeq]

/-! ### Selectors -/

theorem Block.command_eq_some {b : Block} {o : Op} {s : Scheme} :
    b.command = some (o, s) ↔ opOf b.op = some o ∧ schemeOf b.scheme = some s := by
  unfold Block.command
  cases opOf b.op <;> cases schemeOf b.scheme <;> simp

/-- Every command's body is as long as its destination range (R77). -/
theorem body_length (b : Block) (m : Memory) : (body b m).length = b.dstRange.size := by
  unfold body Block.dstRange
  cases hc : b.command with
  | none => simp
  | some p =>
    obtain ⟨o, s⟩ := p
    cases o <;> cases s <;>
      simp [bodyEncode3, bodyEncode4, bodyBuildframe3, bodyBuildframe4, bodyBuildsingle3, bodyBuildsingle4,
        frame, frameSingle, encodeColor_length, colorSeq_length, nbytes, Nat.mul_comm]

/-! ### The check -/

/-- What a passed check says (R207). -/
theorem check_none {span : Range} {b : Block} (h : check span b = none) :
    (∃ o s, b.command = some (o, s)) ∧ ¬ BadRange span b.dstRange ∧ ¬ BadRange span b.srcRange ∧
      b.dstRange.size ≤ b.dstCap.toNat ∧ ¬ b.srcRange.Meets b.dstRange := by
  unfold check at h
  split at h; · cases h
  split at h; · cases h
  split at h; · cases h
  split at h; · cases h
  split at h; · cases h
  split at h; · cases h
  rename_i h1 h2 h3 h4 h5 h6
  refine ⟨?_, h3, h4, by omega, h6⟩
  obtain ⟨o, ho⟩ := Option.ne_none_iff_exists'.1 h1
  obtain ⟨s, hs⟩ := Option.ne_none_iff_exists'.1 h2
  exact ⟨o, s, Block.command_eq_some.2 ⟨ho, hs⟩⟩

theorem Block.dstRange_base (b : Block) : b.dstRange.base = b.dstAddr.toNat := by
  unfold Block.dstRange
  split <;> rfl

theorem Block.srcRange_base (b : Block) : b.srcRange.base = b.srcAddr.toNat := by
  unfold Block.srcRange
  split <;> rfl

/-- A passed check bounds the destination by the address space (R204). -/
theorem check_none_bound {span : Range} {b : Block} (h : check span b = none) :
    b.dstAddr.toNat + b.dstRange.size ≤ Config.addrLimit := by
  obtain ⟨-, hd, -⟩ := check_none h
  rw [← Block.dstRange_base]
  by_cases h0 : 0 < b.dstRange.size
  · by_contra hlt
    exact hd ⟨h0, Or.inl (by omega)⟩
  · have : b.dstAddr.toNat < 2 ^ 32 := b.dstAddr.isLt
    rw [Block.dstRange_base]
    simp only [Config.addrLimit]
    omega

/-- The bytes a running command has still to write fit into its destination range and the address space. -/
theorem State.pending_bound (s : State) :
    s.pending.length ≤ s.block.dstRange.size ∧
      s.block.dstAddr.toNat + s.pending.length ≤ Config.addrLimit := by
  unfold State.pending
  split
  · rename_i h
    rw [body_length]
    exact ⟨le_rfl, check_none_bound h⟩
  · have : s.block.dstAddr.toNat < 2 ^ 32 := s.block.dstAddr.isLt
    simp [Config.addrLimit]
    omega

/-! ### Ranges, sizes and bodies -/

/-- Two ranges meet exactly where an address lies in both. -/
theorem Range.meets_iff_common (r q : Range) : r.Meets q ↔ ∃ a, r.Contains a ∧ q.Contains a := by
  constructor
  · rintro ⟨h1, h2, h3, h4⟩
    exact ⟨max r.base q.base, ⟨by omega, by omega⟩, by omega, by omega⟩
  · rintro ⟨a, ⟨h1, h2⟩, h3, h4⟩
    exact ⟨by omega, by omega, by omega, by omega⟩

/-- The largest frame (R77). -/
theorem Block.dstRange_size_le (b : Block) : b.dstRange.size ≤ 786420 := by
  unfold Block.dstRange
  have := b.ledCount.isLt
  cases b.command with
  | none => simp
  | some p =>
    obtain ⟨o, s⟩ := p
    cases o <;> cases s <;> simp [nbytes, Scheme.bytesPerColor, Scheme.factor, Block.count] <;> omega

/-- The bytes a part of a written range reads as. -/
theorem Memory.readBytes_writeBytes_part {m : Memory} (hm : m.wf) {a : Nat} {bs : List Byte}
    (hb : a + bs.length ≤ Config.addrLimit) (o k : Nat) (h : o + k ≤ bs.length) :
    (m.writeBytes a bs).readBytes (a + o) k = (bs.drop o).take k := by
  apply List.ext_getElem
  · simp; omega
  · intro i h1 h2
    simp [Memory.readBytes] at h1
    simp [Memory.readBytes, Memory.read_writeBytes hm hb, show a ≤ a + o + i by omega,
      show a + o + i - a = o + i by omega, show o + i < bs.length by omega]

/-- A body depends on the source bytes alone (R51, R106). -/
theorem body_congr (b : Block) (m m' : Memory) (h : ∀ a, b.srcRange.Contains a → m.read a = m'.read a) :
    body b m = body b m' := by
  have hseq : ∀ src n, (∀ a, src ≤ a → a < src + 3 * n → m.read a = m'.read a) →
      colorSeq m src n = colorSeq m' src n := by
    intro src n hm
    unfold colorSeq
    apply List.map_congr_left
    intro i hi
    have := List.mem_range.1 hi
    simp [colorAt, hm (src + 3 * i) (by omega) (by omega), hm (src + 3 * i + 1) (by omega) (by omega),
      hm (src + 3 * i + 2) (by omega) (by omega)]
  unfold body
  unfold Block.srcRange at h
  cases hc : b.command with
  | none => rfl
  | some p =>
    obtain ⟨o, s⟩ := p
    cases o <;> cases s <;> first
      | rfl
      | (simp [hc, srcbytes, Block.count] at h
         simp [bodyBuildframe3, bodyBuildframe4, Block.count]
         rw [hseq _ _ fun a h1 h2 => h a h1 h2])

/-! ### The core's step -/

/-- Everything the core's step can do (R141): nothing while idle; an error's completion; a recorded
MemNotAdmitted; or the body written and the completion without error. -/
theorem coreStep_cases (s : State) :
    (s.block.status.busy = false ∧ coreStep s = s) ∨
    (∃ e, s.block.status.busy = true ∧ check s.platform.span s.block = some e ∧
      coreStep s = s.complete (some e) 0) ∨
    (s.block.status.busy = true ∧ check s.platform.span s.block = none ∧
      ¬ (s.platform.Admits s.block.srcRange ∧ s.platform.Admits s.block.dstRange) ∧
      coreStep s = s.addFault .memNotAdmitted) ∨
    (s.block.status.busy = true ∧ check s.platform.span s.block = none ∧
      s.platform.Admits s.block.srcRange ∧ s.platform.Admits s.block.dstRange ∧
      coreStep s = (s.withMem (s.mem.writeBytes s.block.dstAddr.toNat (body s.block s.mem))).complete none
        (body s.block s.mem).length) := by
  unfold coreStep
  cases hb : s.block.status.busy with
  | false => exact Or.inl ⟨rfl, by simp⟩
  | true =>
    refine Or.inr ?_
    cases hc : check s.platform.span s.block with
    | some e => exact Or.inl ⟨e, rfl, rfl, by simp⟩
    | none =>
      refine Or.inr ?_
      by_cases ha : s.platform.Admits s.block.srcRange ∧ s.platform.Admits s.block.dstRange
      · exact Or.inr ⟨rfl, rfl, ha.1, ha.2, by simp only [if_true, if_pos ha]⟩
      · exact Or.inl ⟨rfl, rfl, ha, by simp only [if_true, if_neg ha]⟩

/-- The core's step of a command that completes without error (R141, R142). -/
theorem coreStep_of_ok {s : State} (hb : s.block.status.busy = true) (hc : check s.platform.span s.block = none)
    (h1 : s.platform.Admits s.block.srcRange) (h2 : s.platform.Admits s.block.dstRange) :
    coreStep s = (s.withMem (s.mem.writeBytes s.block.dstAddr.toNat (body s.block s.mem))).complete none
      (body s.block s.mem).length := by
  rcases coreStep_cases s with ⟨h, -⟩ | ⟨e, -, h, -⟩ | ⟨-, -, h, -⟩ | ⟨-, -, -, -, h⟩
  · simp [hb] at h
  · simp [hc] at h
  · exact absurd ⟨h1, h2⟩ h
  · exact h

end Sys2Proof.Machine
end

