-- ==== Sys2Proof/Laws/Encoding.lean ====
section
/-! SUPPORT. The fields of a CTRL word and of a register offset, put together and taken apart (30_encoding.md R70;
10_state.md R24). -/

namespace Sys2Proof

/-- The offset's register is the register (R24). -/
@[simp] theorem offsetReg_offset (r : Reg) : offsetReg r.offset = r := by cases r <;> decide

/-- The register's offset is in the span and aligned (R24). -/
theorem Reg.offset_facts (r : Reg) : r.offset.toNat < 0x20 ∧ r.offset.toNat % 4 = 0 := by cases r <;> decide

/-- An aligned offset in the span is its register's offset (R24). -/
theorem offset_offsetReg {o : BitVec 8} (h : o.toNat < 0x20) (h4 : o.toNat % 4 = 0) :
    (offsetReg o).offset = o := by
  revert o
  decide

/-! ### The CTRL word (R70) -/

theorem getLsbD_ctrlWord (st : Bool) (ign : BitVec 27) (sch op : BitVec 2) (i : Nat) :
    (ctrlWord st ign sch op).getLsbD i =
      if i < 2 then op.getLsbD i
      else if i < 4 then sch.getLsbD (i - 2)
      else if i < 31 then ign.getLsbD (i - 4) else (decide (i = 31) && st) := by
  unfold ctrlWord
  simp only [BitVec.getLsbD_append]
  by_cases h1 : i < 2
  · simp [h1]
  · by_cases h2 : i < 4
    · simp [h1, h2, show i - 2 < 2 by omega]
    · by_cases h3 : i < 31
      · simp only [h1, h2, h3, if_false, if_true, show ¬ i - 2 < 2 by omega, show i - 2 - 2 = i - 4 by omega,
          show i - 4 < 27 by omega]
      · simp [h1, h2, h3, show ¬ i - 2 < 2 by omega, show ¬ i - 2 - 2 < 27 by omega]
        congr 1
        simp only [decide_eq_decide]
        omega

@[simp] theorem ctrlStart_ctrlWord (st : Bool) (ign : BitVec 27) (sch op : BitVec 2) :
    ctrlStart (ctrlWord st ign sch op) = st := by
  rw [ctrlStart, getLsbD_ctrlWord]
  simp

@[simp] theorem ctrlOp_ctrlWord (st : Bool) (ign : BitVec 27) (sch op : BitVec 2) :
    ctrlOp (ctrlWord st ign sch op) = op := by
  apply BitVec.eq_of_getLsbD_eq
  intro i hi
  simp [ctrlOp, getLsbD_ctrlWord, hi]

@[simp] theorem ctrlScheme_ctrlWord (st : Bool) (ign : BitVec 27) (sch op : BitVec 2) :
    ctrlScheme (ctrlWord st ign sch op) = sch := by
  apply BitVec.eq_of_getLsbD_eq
  intro i hi
  simp [ctrlScheme, getLsbD_ctrlWord, hi, show ¬ 2 + i < 2 by omega, show 2 + i < 4 by omega]

@[simp] theorem ctrlIgn_ctrlWord (st : Bool) (ign : BitVec 27) (sch op : BitVec 2) :
    ctrlIgn (ctrlWord st ign sch op) = ign := by
  apply BitVec.eq_of_getLsbD_eq
  intro i hi
  simp [ctrlIgn, getLsbD_ctrlWord, hi, show ¬ 4 + i < 2 by omega, show 4 + i < 31 by omega]

/-- A word is the word of its fields. -/
@[simp] theorem ctrlWord_fields (w : Word) :
    ctrlWord (ctrlStart w) (ctrlIgn w) (ctrlScheme w) (ctrlOp w) = w := by
  apply BitVec.eq_of_getLsbD_eq
  intro i hi
  rw [getLsbD_ctrlWord]
  by_cases h1 : i < 2
  · simp [h1, ctrlOp]
  · by_cases h2 : i < 4
    · simp [h1, h2, ctrlScheme, show i - 2 < 2 by omega, show 2 + (i - 2) = i by omega]
    · by_cases h3 : i < 31
      · simp [h1, h2, h3, ctrlIgn, show i - 4 < 27 by omega, show 4 + (i - 4) = i by omega]
      · obtain rfl : i = 31 := by omega
        simp [ctrlStart]

/-- The encoding of every START row puts its fields into one word. -/
theorem decodeStart_encode (ign : BitVec 27) (sch op : BitVec 2) :
    encode (decodeStart ign sch op) = startAccess ign sch op := by
  have hall : ∀ x : BitVec 2, x = 0#2 ∨ x = 1#2 ∨ x = 2#2 ∨ x = 3#2 := by decide
  rcases hall sch with rfl | rfl | rfl | rfl <;> rcases hall op with rfl | rfl | rfl | rfl <;> rfl

end Sys2Proof
end

