-- ==== Sys2Proof/Laws/PerInstr.lean ====
section
/-! SUPPORT. Statements about every instruction as syntax, one lemma for each constructor. `AlignedWordAccess`: the
transaction of an instruction is an aligned 32-bit access in the register span, the only kind that is defined
(30_encoding.md R87; 20_memory.md R57). -/

namespace Sys2Proof.Laws.AlignedWordAccess

/-- The instruction's transaction has width 4 and an offset in {0x00, 0x04, ..., 0x1C}. -/
def Statement (i : Instr) : Prop :=
  (encode i).width = 4 ∧ (encode i).offset.toNat % 4 = 0 ∧ (encode i).offset.toNat < Config.regSpan

/-- The offsets of the register map are aligned and in the span (R24). -/
theorem offset_aligned (r : Reg) : r.offset.toNat % 4 = 0 ∧ r.offset.toNat < Config.regSpan := by
  cases r <;> decide

theorem rd (r : Reg) (t : Var) : Statement (.rd r t) := ⟨rfl, offset_aligned r⟩
theorem wr (r : Reg) (data : Word) : Statement (.wr r data) := ⟨rfl, offset_aligned r⟩
theorem ctrlset (ign : BitVec 27) (scheme op : BitVec 2) : Statement (.ctrlset ign scheme op) :=
  ⟨rfl, offset_aligned .ctrl⟩
theorem encode3 (ign : BitVec 27) : Statement (.encode3 ign) := ⟨rfl, offset_aligned .ctrl⟩
theorem encode4 (ign : BitVec 27) : Statement (.encode4 ign) := ⟨rfl, offset_aligned .ctrl⟩
theorem buildframe3 (ign : BitVec 27) : Statement (.buildframe3 ign) := ⟨rfl, offset_aligned .ctrl⟩
theorem buildframe4 (ign : BitVec 27) : Statement (.buildframe4 ign) := ⟨rfl, offset_aligned .ctrl⟩
theorem buildsingle3 (ign : BitVec 27) : Statement (.buildsingle3 ign) := ⟨rfl, offset_aligned .ctrl⟩
theorem buildsingle4 (ign : BitVec 27) : Statement (.buildsingle4 ign) := ⟨rfl, offset_aligned .ctrl⟩
theorem reservedOp (ign : BitVec 27) (scheme : BitVec 2) : Statement (.reservedOp ign scheme) :=
  ⟨rfl, offset_aligned .ctrl⟩
theorem reservedScheme8 (ign : BitVec 27) : Statement (.reservedScheme8 ign) := ⟨rfl, offset_aligned .ctrl⟩
theorem reservedScheme9 (ign : BitVec 27) : Statement (.reservedScheme9 ign) := ⟨rfl, offset_aligned .ctrl⟩
theorem reservedSchemeA (ign : BitVec 27) : Statement (.reservedSchemeA ign) := ⟨rfl, offset_aligned .ctrl⟩
theorem reservedSchemeC (ign : BitVec 27) : Statement (.reservedSchemeC ign) := ⟨rfl, offset_aligned .ctrl⟩
theorem reservedSchemeD (ign : BitVec 27) : Statement (.reservedSchemeD ign) := ⟨rfl, offset_aligned .ctrl⟩
theorem reservedSchemeE (ign : BitVec 27) : Statement (.reservedSchemeE ign) := ⟨rfl, offset_aligned .ctrl⟩

end Sys2Proof.Laws.AlignedWordAccess
end

