-- ==== Sys2Proof/Laws/Steps.lean ====
section
/-! SUPPORT. Everything the host's step can do, said once: the meanings while BUSY and while idle, the bus statement,
the transfer, the branch, and the statement at `hpc`. -/

namespace Sys2Proof.Machine

/-- A fault recorded under a condition: the faults before, and that one where the condition holds. -/
theorem ModelFault.mem_insertIf (p : Prop) [Decidable p] (g f : ModelFault) (fs : List ModelFault) :
    f ∈ (if p then ModelFault.insert g fs else fs) ↔ f ∈ fs ∨ (f = g ∧ p) := by
  split <;> simp [*, or_comm]

/-- The hazards of a host write: the faults before, and each of the three where its rule's condition holds. -/
theorem State.mem_writeHazards_faults (s : State) (a : Nat) (f : ModelFault) :
    f ∈ (s.writeHazards a).faults ↔ f ∈ s.faults ∨
      (f = .ownedBufferWritten ∧ ∃ q ∈ s.owned, q.Contains a) ∨
      (f = .srcWrittenWhileBusy ∧ s.block.status.busy = true ∧ s.block.srcRange.Contains a) ∨
      (f = .dstWrittenWhileBusy ∧ s.block.status.busy = true ∧ s.block.dstRange.Contains a) := by
  simp only [State.writeHazards, State.faultIf_faults, ModelFault.mem_insertIf, or_assoc]

/-- While BUSY every instruction but RD sets IGNORED and goes on (R162). -/
theorem exec_of_busy {i : Instr} {s : State} (h : ∀ r v, i ≠ .rd r v) (hb : s.block.status.busy = true) :
    exec i s = .next s.ignoreWrite.advance := by
  cases i
  case rd r v => exact absurd rfl (h r v)
  all_goals
    simp [exec, execWr, execCtrlset, execEncode3, execEncode4, execBuildframe3, execBuildframe4, execBuildsingle3,
      execBuildsingle4, execReservedOp, execReservedScheme8, execReservedScheme9, execReservedSchemeA,
      execReservedSchemeC, execReservedSchemeD, execReservedSchemeE, startCommand, State.writeReg, hb]

/-- While idle an instruction starts a command, sets the selectors, stores into a register, or reads one. -/
theorem exec_of_idle (i : Instr) {s : State} (hb : s.block.status.busy = false) :
    (∃ sch op, exec i s = .next (s.accept sch op).advance) ∨
    (∃ sch op, exec i s = .next (s.setSelectors sch op).advance) ∨
    (∃ r d, exec i s = .next (s.withBlock (s.block.store d r)).advance) ∨
    (∃ r v, i = .rd r v ∧ exec i s = .next (s.setVar v (s.block.value r)).advance) := by
  have start : ∀ sch op, startCommand sch op s = .next (s.accept sch op).advance := by simp [startCommand, hb]
  cases i
  case rd r v => exact Or.inr (Or.inr (Or.inr ⟨r, v, rfl, rfl⟩))
  case wr r d =>
    by_cases hr : r = .ctrl
    · cases hs : ctrlStart d
      · exact Or.inr (Or.inl ⟨ctrlScheme d, ctrlOp d, by simp [exec, execWr, State.writeReg, hb, hr, State.writeCtrl, hs]⟩)
      · exact Or.inl ⟨ctrlScheme d, ctrlOp d, by simp [exec, execWr, State.writeReg, hb, hr, State.writeCtrl, hs]⟩
    · exact Or.inr (Or.inr (Or.inl ⟨r, d, by simp [exec, execWr, State.writeReg, hb, hr]⟩))
  case ctrlset ign sch op => exact Or.inr (Or.inl ⟨sch, op, by simp [exec, execCtrlset, hb]⟩)
  all_goals exact Or.inl ⟨_, _, start _ _⟩

/-- Everything a bus statement that goes on can do. -/
theorem execBus_cases {a : BusAccess} {s t : State} (h : execBus a s = .next t) :
    t = s.badAccess ∨
    (s.block.status.busy = true ∧ t = s.ignoreWrite.advance) ∨
    (s.block.status.busy = false ∧ ∃ sch op, t = (s.accept sch op).advance) ∨
    (s.block.status.busy = false ∧ ∃ sch op, t = (s.setSelectors sch op).advance) ∨
    (s.block.status.busy = false ∧ ∃ r d, t = (s.withBlock (s.block.store d r)).advance) ∨
    ∃ r v, t = (s.setVar v (s.block.value r)).advance := by
  unfold execBus at h
  split at h
  · rename_i i _
    by_cases hi : ∃ r v, i = .rd r v
    · obtain ⟨r, v, rfl⟩ := hi
      cases h
      exact Or.inr (Or.inr (Or.inr (Or.inr (Or.inr ⟨r, v, rfl⟩))))
    · cases hb : s.block.status.busy
      · rcases exec_of_idle i hb with ⟨sch, op, e⟩ | ⟨sch, op, e⟩ | ⟨r, d, e⟩ | ⟨r, v, rfl, -⟩
        · exact Or.inr (Or.inr (Or.inl ⟨rfl, sch, op, by rw [e] at h; cases h; rfl⟩))
        · exact Or.inr (Or.inr (Or.inr (Or.inl ⟨rfl, sch, op, by rw [e] at h; cases h; rfl⟩)))
        · exact Or.inr (Or.inr (Or.inr (Or.inr (Or.inl ⟨rfl, r, d, by rw [e] at h; cases h; rfl⟩))))
        · exact absurd ⟨r, v, rfl⟩ hi
      · rw [exec_of_busy (fun r v e => hi ⟨r, v, e⟩) hb] at h
        cases h
        exact Or.inr (Or.inl ⟨rfl, rfl⟩)
  · cases h
    exact Or.inl rfl
  · cases h

/-- A transfer emits nothing, or one event, and puts at most its own range in flight. -/
theorem State.transmit_cases (s : State) (a k : Nat) (mode : XmitMode) :
    s.transmit a k mode = s ∨
    ∃ e o, k ≠ 0 ∧ s.transmit a k mode = (s.withLine (s.line ++ [e])).withOwned o ∧
      (o = s.owned ∨ o = s.owned ++ [⟨a, k⟩]) := by
  by_cases hk : k = 0
  · exact Or.inl (by simp [State.transmit, hk])
  · refine Or.inr ?_
    cases mode
    · exact ⟨_, s.owned, hk, by simp [State.transmit, hk]; rfl, Or.inl rfl⟩
    · exact ⟨_, _, hk, by simp [State.transmit, hk]; rfl, Or.inr rfl⟩

/-- A branch that goes on changes the host's index alone. -/
theorem branch_cases {v : Var} {mask : Word} {l : Label} {taken : Word → Bool} {s t : State}
    (h : branch v mask l taken s = .next t) : ∃ n, t = s.withHpc n := by
  unfold branch at h
  split at h
  · cases h
  · cases h
  · cases h
    split
    · exact ⟨_, rfl⟩
    · exact ⟨_, rfl⟩

/-- Everything a host statement that goes on can do. -/
theorem execStmt_cases {x : Stmt} {s t : State} (h : execStmt x s = .next t) :
    (∃ a, x = .bus a ∧ execBus a s = .next t) ∨
    (∃ a b, x = .mwr a b ∧ t = (s.hostWrite a.toNat b).advance) ∨
    (∃ a, t = (s.writeHazards a).badAccess) ∨
    t = s.badAccess ∨
    (∃ n v w, t = ((s.withDraws n).setVar v w).advance) ∨
    (∃ n, t = s.withHpc n) ∨
    (∃ a k mode, x = .xmit a k mode ∧ a.toNat + k ≤ Config.addrLimit ∧
      t = ((s.faultIf (s.TransmitHazard a.toNat k) .transmitWhileBusy).transmit a.toNat k mode).advance) ∨
    t = (s.addFault .transmitWhileBusy).advance ∨
    t = s ∨
    (x = .settle ∧ t = (s.emit (.settle s.platform.tSettle)).advance) := by
  cases x with
  | bus a => exact Or.inl ⟨a, rfl, h⟩
  | mwr a b =>
    simp only [execStmt, execMwr] at h
    split at h <;> cases h
    · exact Or.inr <| Or.inr <| Or.inl <| ⟨_, rfl⟩
    · exact Or.inr <| Or.inl <| ⟨a, b, rfl, rfl⟩
  | mrd a v =>
    simp only [execStmt, execMrd] at h
    split at h
    · cases h
      exact Or.inr <| Or.inr <| Or.inr <| Or.inl <| rfl
    · split at h <;> cases h
      · exact Or.inr <| Or.inr <| Or.inr <| Or.inr <| Or.inl <| ⟨_, _, _, rfl⟩
      · exact Or.inr <| Or.inr <| Or.inr <| Or.inr <| Or.inl <| ⟨s.draws, _, _, rfl⟩
  | bnz v m l =>
    simp only [execStmt, execBnz] at h
    exact Or.inr <| Or.inr <| Or.inr <| Or.inr <| Or.inr <| Or.inl <| branch_cases h
  | bz v m l =>
    simp only [execStmt, execBz] at h
    exact Or.inr <| Or.inr <| Or.inr <| Or.inr <| Or.inr <| Or.inl <| branch_cases h
  | xmit a k mode =>
    simp only [execStmt, execXmit] at h
    split at h
    · split at h <;> cases h
      exact Or.inr <| Or.inr <| Or.inr <| Or.inr <| Or.inr <| Or.inr <| Or.inr <| Or.inl rfl
    · cases h
      exact Or.inr <| Or.inr <| Or.inr <| Or.inr <| Or.inr <| Or.inr <| Or.inl ⟨a, k, mode, rfl, by omega, rfl⟩
  | xwait =>
    simp only [execStmt, execXwait] at h
    split at h <;> cases h
    · exact Or.inr <| Or.inr <| Or.inr <| Or.inr <| Or.inr <| Or.inl ⟨s.hpc + 1, rfl⟩
    · exact Or.inr <| Or.inr <| Or.inr <| Or.inr <| Or.inr <| Or.inr <| Or.inr <| Or.inr <| Or.inl rfl
  | settle =>
    cases h
    exact Or.inr <| Or.inr <| Or.inr <| Or.inr <| Or.inr <| Or.inr <| Or.inr <| Or.inr <| Or.inr <| ⟨rfl, rfl⟩

/-- A host step that goes on leaves the state, or runs the statement at `hpc`. -/
theorem hostStep_cases {s t : State} (h : hostStep s = .next t) :
    t = s ∨ ∃ line, s.program[s.hpc]? = some line ∧ execStmt line.stmt s = .next t := by
  unfold hostStep at h
  split at h
  · exact Or.inr ⟨_, ‹_›, h⟩
  · cases h
    exact Or.inl rfl

/-- A statement placed at an index stands there. -/
theorem placeStmt_get (p : Program) (n : Nat) (st : Stmt) :
    ∃ line, (placeStmt p n st)[n]? = some line ∧ line.stmt = st := by
  unfold placeStmt
  rw [List.getElem?_modify]
  simp only [if_true]
  have : n < (p ++ List.replicate (n + 1 - p.length) (Line.mk none .xwait)).length := by simp; omega
  rw [List.getElem?_eq_getElem this]
  exact ⟨_, rfl, rfl⟩

end Sys2Proof.Machine
end

