-- ==== Sys2Proof/Laws/Runs.lean ====
section
/-! SUPPORT. Following a transfer along a run: a turn that does not complete it leaves its range in flight, at the
place that `Turn.follow` gives; and what fairness to the transport brings about. -/

namespace Sys2Proof.Machine

/-- No host statement takes a range out of flight: it adds at most one behind the others (R182, R184). -/
theorem hostStep_owned {s t : State} (h : hostStep s = .next t) : ∃ o, t.owned = s.owned ++ o := by
  rcases hostStep_cases h with rfl | ⟨line, -, h⟩
  · exact ⟨[], by simp⟩
  · rcases execStmt_cases h with ⟨a, -, h⟩ | ⟨a, b, -, rfl⟩ | ⟨a, rfl⟩ | rfl | ⟨n, v, w, rfl⟩ | ⟨n, rfl⟩ |
      ⟨a, k, mode, -, -, rfl⟩ | rfl | rfl | ⟨-, rfl⟩
    · rcases execBus_cases h with rfl | ⟨-, rfl⟩ | ⟨-, sch, op, rfl⟩ | ⟨-, sch, op, rfl⟩ | ⟨-, r, d, rfl⟩ |
        ⟨r, v, rfl⟩ <;> exact ⟨[], by simp [State.badAccess]⟩
    · exact ⟨[], by simp [State.hostWrite]⟩
    · exact ⟨[], by simp [State.badAccess]⟩
    · exact ⟨[], by simp [State.badAccess]⟩
    · exact ⟨[], by simp⟩
    · exact ⟨[], by simp⟩
    · rcases State.transmit_cases (s.faultIf (s.TransmitHazard a.toNat k) .transmitWhileBusy) a.toNat k mode with
        h | ⟨e, o, -, h, ho | ho⟩ <;> rw [h]
      · exact ⟨[], by simp⟩
      · exact ⟨[], by simp [ho]⟩
      · exact ⟨[⟨a.toNat, k⟩], by simp [ho]⟩
    · exact ⟨[], by simp⟩
    · exact ⟨[], by simp⟩
    · exact ⟨[], by simp⟩

/-- The core's step leaves the transfers in flight. -/
theorem coreStep_owned (s : State) : (coreStep s).owned = s.owned := by
  rcases coreStep_cases s with ⟨-, h⟩ | ⟨e, -, -, h⟩ | ⟨-, -, -, h⟩ | ⟨-, -, -, -, h⟩ <;> rw [h] <;> rfl

/-- A transfer in flight that the turn does not complete stays in flight, with its range, where `Turn.follow` says
(R182, R184). -/
theorem step_owned_follow {s t : State} (h : step s = .next t) {k k' : Nat} (hk : k < s.owned.length)
    (hf : s.nextTurn.follow k = some k') : t.owned[k']? = s.owned[k]? := by
  obtain ⟨-, h⟩ := step_next h
  have e : s.takeTurn.owned = s.owned := by simp
  rw [← e] at hk ⊢
  generalize s.takeTurn = x at h hk ⊢
  generalize s.nextTurn = u at h hf
  cases u with
  | host =>
    cases hf
    obtain ⟨o, ho⟩ := hostStep_owned h
    rw [ho, List.getElem?_append_left hk]
  | core =>
    cases hf
    cases h
    rw [coreStep_owned]
  | transport l =>
    cases h
    simp only [Turn.follow] at hf
    split at hf
    · cases hf
    · split at hf <;> cases hf
      · simp [transportStep, List.getElem?_eraseIdx, show ¬ k - 1 < l by omega, show k - 1 + 1 = k by omega]
      · simp [transportStep, List.getElem?_eraseIdx, show k < l by omega]
  | reset =>
    cases hf
    cases h
    rfl
  | setClock f =>
    cases hf
    cases h
    rfl
  | glitch =>
    cases hf
    cases h
    rfl

/-- A transfer that has not completed `j` steps later is in flight then, with its range, at its place (R182). -/
theorem placeAfter_owned {run : Nat → State} (hr : IsRun run) {n k : Nat} (hk : k < (run n).owned.length) :
    ∀ {j k'}, placeAfter run n k j = some k' → (run (n + j)).owned[k']? = (run n).owned[k]?
  | 0, k', h => by
    cases h
    rfl
  | j + 1, k', h => by
    obtain ⟨i, hi, hf⟩ := Option.bind_eq_some_iff.1 h
    have ih := placeAfter_owned hr hk hi
    have hlt : i < (run (n + j)).owned.length := by
      by_contra hge
      rw [List.getElem?_eq_none (Nat.le_of_not_lt hge), List.getElem?_eq_getElem hk] at ih
      cases ih
    exact (step_owned_follow (hr (n + j)) hlt hf).trans ih

/-- A turn after which a transfer is nowhere is its completion. -/
theorem Turn.follow_eq_none {u : Turn} {k : Nat} (h : u.follow k = none) : u = .transport k := by
  cases u with
  | transport l =>
    simp only [Turn.follow] at h
    split at h
    · rename_i e
      rw [e]
    · split at h <;> cases h
  | _ => cases h

/-- On a run that is fair to the transport, a completion comes as long as a transfer is in flight (R184). -/
theorem TransportFair.completion {run : Nat → State} (hr : IsRun run) (hf : TransportFair run) (n : Nat) :
    ∃ m, n ≤ m ∧ ((run m).owned = [] ∨ ∃ k < (run m).owned.length, (run m).nextTurn = .transport k) := by
  by_cases ho : (run n).owned = []
  · exact ⟨n, le_rfl, Or.inl ho⟩
  have hk : 0 < (run n).owned.length := List.length_pos_iff.2 ho
  have last : ∀ j, placeAfter run n 0 j = none →
      ∃ i k, placeAfter run n 0 i = some k ∧ (run (n + i)).nextTurn.follow k = none := by
    intro j
    induction j with
    | zero => intro h; cases h
    | succ j ih =>
      intro h
      cases hj : placeAfter run n 0 j with
      | none => exact ih hj
      | some k => exact ⟨j, k, hj, by simpa [placeAfter, hj] using h⟩
  obtain ⟨j, hj⟩ := hf n 0 hk
  obtain ⟨i, k, hi, hn⟩ := last j hj
  refine ⟨n + i, Nat.le_add_right n i, Or.inr ⟨k, ?_, Turn.follow_eq_none hn⟩⟩
  have := placeAfter_owned hr hk hi
  by_contra hge
  rw [List.getElem?_eq_none (Nat.le_of_not_lt hge), List.getElem?_eq_getElem hk] at this
  cases this

end Sys2Proof.Machine
end

