-- ==== Sys2Proof/Laws/Wire.lean ====
section
/-! SUPPORT. The wire string taken apart: its length, its slices, and cutting it into groups; and the
line's history cut into frames. -/

/-- `T_SETTLE` exceeds the latch threshold (R7, R189). -/
theorem Sys2Proof.Platform.latch_lt_tSettle (p : Sys2Proof.Platform) : p.latch < p.tSettle := by
  unfold Sys2Proof.Platform.tSettle
  omega

namespace Sys2Proof.Machine

theorem bitsOf_length (b : Byte) : (bitsOf b).length = 8 := by simp [bitsOf]

theorem wire_cons (b : Byte) (bs : List Byte) : wire (b :: bs) = bitsOf b ++ wire bs := rfl

theorem wire_append (as bs : List Byte) : wire (as ++ bs) = wire as ++ wire bs := by simp [wire]

theorem wire_length (bs : List Byte) : (wire bs).length = 8 * bs.length := by
  induction bs with
  | nil => rfl
  | cons b bs ih => simp [wire_cons, bitsOf_length, ih]; omega

theorem wire_drop (bs : List Byte) (n : Nat) : (wire bs).drop (8 * n) = wire (bs.drop n) := by
  induction bs generalizing n with
  | nil => simp [wire]
  | cons b bs ih =>
    cases n with
    | zero => simp
    | succ n =>
      rw [wire_cons, show 8 * (n + 1) = 8 + 8 * n by omega, ← List.drop_drop]
      conv_lhs => rw [← bitsOf_length b, List.drop_left, bitsOf_length b]
      simpa using ih n

theorem wire_take (bs : List Byte) (n : Nat) : (wire bs).take (8 * n) = wire (bs.take n) := by
  induction bs generalizing n with
  | nil => simp [wire]
  | cons b bs ih =>
    cases n with
    | zero => simp [wire]
    | succ n =>
      rw [wire_cons, show 8 * (n + 1) = 8 + 8 * n by omega, List.take_append,
        List.take_of_length_le (by simp [bitsOf_length])]
      simp [bitsOf_length, ih n, wire_cons]

/-- Cutting `1 x 0` groups gives the bits back. -/
theorem cut3_groups (l w : List Bool) :
    cut3 (l.flatMap (fun x => [true, x, false]) ++ w) = (cut3 w).map (l ++ ·) := by
  induction l with
  | nil => simp
  | cons x l ih => simp [cut3, ih]; rfl

/-- Cutting `1 x x 0` groups gives the bits back. -/
theorem cut4_groups (l w : List Bool) :
    cut4 (l.flatMap (fun x => [true, x, x, false]) ++ w) = (cut4 w).map (l ++ ·) := by
  induction l with
  | nil => simp
  | cons x l ih => simp [cut4, ih]; rfl

/-! ### The line's history -/

/-- A longer history: its first part's frames are cut as before, and the unsettled one goes on in the second. -/
theorem framesFrom_append (latch : Nat) (cur : WireFrame) (l l' : List LineEvent) :
    framesFrom latch cur (l ++ l') =
      ⟨(framesFrom latch cur l).settled ++ (framesFrom latch (framesFrom latch cur l).current l').settled,
        (framesFrom latch (framesFrom latch cur l).current l').current⟩ := by
  induction l generalizing cur with
  | nil => rfl
  | cons e l ih =>
    cases e with
    | transfer bits clock => exact ih _
    | glitch => exact ih _
    | settle d =>
      simp only [List.cons_append, framesFrom]
      split
      · simp [ih]
      · exact ih _

/-- What an LED shows after two runs of frames. -/
theorem ledAfterFrames_append (p : Platform) (s : Scheme) (i : Nat) (fs gs : List WireFrame) (key : Nat)
    (before : Color) :
    ledAfterFrames p s i (fs ++ gs) key before =
      ledAfterFrames p s i gs (key + fs.length) (ledAfterFrames p s i fs key before) := by
  induction fs generalizing key before with
  | nil => rfl
  | cons f fs ih =>
    simp only [List.cons_append, ledAfterFrames, ih, List.length_cons]
    congr 1
    omega

/-- A settle longer than the latch threshold leaves no frame unsettled (R189). -/
theorem framesOf_settle_current {latch d : Nat} (h : latch < d) (l : List LineEvent) :
    (framesOf latch (l ++ [.settle d])).current = WireFrame.empty := by
  simp [framesOf, framesFrom_append, framesFrom, h]

end Sys2Proof.Machine
end

