-- ==== Sys2Proof/Tests/Slice0.lean ====
section
/-! SUPPORT. The model's own tests. Expected values are taken from spec/95_test_vectors.md (the vector's name is
given) or from the rule named, never from the model. -/

namespace Sys2Proof.Tests

open Sys2Proof.Machine

/-! ### Helpers: the parameter instance of 95_test_vectors.md and small states -/

/-- The parameter values that 95_test_vectors.md uses in every example. -/
def vectorPlatform : Platform where
  regBase := 0x40000000
  admitted := [⟨0, 0x10000⟩]
  fBit3 := 24
  fBit4 := 32
  latch := 280
  settleMargin := 19
  hostEndian := .little
  fourBitTimingOK := true

/-- A launched state with the given registers and memory, no turn planned. -/
def st (b : Block) (m : Memory := []) : State :=
  (State.launch vectorPlatform m []).withBlock b

/-- The registers after reset. -/
def b0 : Block := Block.reset

/-- The registers in a BUSY window. -/
def running (b : Block) : Block := { b with status := Status.accepted }

/-- The state whose next step is the host's, running one statement. -/
def hosting (x : Stmt) (s : State) : State :=
  (s.withProgram [⟨none, x⟩]).withAgenda [.host]

/-- The state an outcome holds, or `d`. -/
def after (o : Host.Outcome State Fault Refusal) (d : State) : State :=
  match o with
  | .next t => t
  | _ => d

/-- The state after one host statement. -/
def ran (x : Stmt) (s : State) : State := after (step (hosting x s)) s

/-- The decoded instruction, or none. -/
def decoded (a : BusAccess) : Option Instr :=
  match decode a with
  | .ok i => some i
  | .error _ => none

/-- A write of `w` to CTRL, written out as a transaction (R87). -/
def ctrlWrite (w : Word) : BusAccess := ⟨.write w, 0x00#8, 4⟩

/-! ### Well-formedness: each check refuses an ill-formed term -/

theorem test_wf_wr_ctrl_refused : (Instr.wr .ctrl 0x80000000#32).wf = false := by decide
theorem test_wf_wr_color : (Instr.wr .color 0x00230000#32).wf = true := by decide
theorem test_wf_bus_outside_refused : (Stmt.bus ⟨.read 0, 0x20#8, 4⟩).wf = false := by decide
theorem test_wf_xmit_past_end_refused : (Stmt.xmit 0xFFFFFFFF#32 2 .sync).wf = false := by decide
theorem test_wf_xmit_last_byte : (Stmt.xmit 0xFFFFFFFF#32 1 .sync).wf = true := by decide
theorem test_wf_label_twice_refused : Program.wf [⟨some 1, .xwait⟩, ⟨some 1, .settle⟩] = false := by decide
theorem test_wf_label_undefined_refused : Program.wf [⟨none, .bnz 0 1#32 7⟩] = false := by decide
theorem test_wf_program_statement_refused :
    Program.wf [⟨none, .xmit 0xFFFFFFFF#32 2 .sync⟩] = false := by decide
theorem test_wf_loop : Program.wf [⟨some 7, .xwait⟩, ⟨none, .bnz 0 1#32 7⟩] = true := by decide

/-! ### Decoding: each constructor by a word written out from R24, R70 to R73 and the opcode table -/

theorem test_decode_rd : decoded ⟨.read 5, 0b00011000#8, 4⟩ = some (.rd .status 5) := by decide
theorem test_decode_wr : decoded ⟨.write 0x18#32, 0b00010100#8, 4⟩ = some (.wr .dstCap 0x18#32) := by decide
theorem test_decode_ctrlset :
    decoded (ctrlWrite 0x7FFFFFF5#32) = some (.ctrlset 0x7FFFFFF#27 0b01#2 0b01#2) := by decide
theorem test_decode_encode3 : decoded (ctrlWrite 0x8FFFFFF0#32) = some (.encode3 0x0FFFFFF#27) := by decide
theorem test_decode_encode4 : decoded (ctrlWrite 0x80000004#32) = some (.encode4 0#27) := by decide
theorem test_decode_buildframe3 : decoded (ctrlWrite 0x80000001#32) = some (.buildframe3 0#27) := by decide
theorem test_decode_buildframe4 : decoded (ctrlWrite 0x80000005#32) = some (.buildframe4 0#27) := by decide
theorem test_decode_buildsingle3 : decoded (ctrlWrite 0x80000002#32) = some (.buildsingle3 0#27) := by decide
theorem test_decode_buildsingle4 : decoded (ctrlWrite 0x80000016#32) = some (.buildsingle4 1#27) := by decide
theorem test_decode_reservedOp : decoded (ctrlWrite 0x8000000B#32) = some (.reservedOp 0#27 0b10#2) := by decide
theorem test_decode_reserved8 : decoded (ctrlWrite 0x80000008#32) = some (.reservedScheme8 0#27) := by decide
theorem test_decode_reserved9 : decoded (ctrlWrite 0x80000009#32) = some (.reservedScheme9 0#27) := by decide
theorem test_decode_reservedA : decoded (ctrlWrite 0x8000000A#32) = some (.reservedSchemeA 0#27) := by decide
theorem test_decode_reservedC : decoded (ctrlWrite 0x8000000C#32) = some (.reservedSchemeC 0#27) := by decide
theorem test_decode_reservedD : decoded (ctrlWrite 0x8000000D#32) = some (.reservedSchemeD 0#27) := by decide
theorem test_decode_reservedE : decoded (ctrlWrite 0x8000000E#32) = some (.reservedSchemeE 0#27) := by decide
theorem test_decode_byte_read_rejected : decoded ⟨.read 0, 0x18#8, 1⟩ = none := by decide
theorem test_decode_misaligned_rejected : decoded ⟨.write 0#32, 0x02#8, 4⟩ = none := by decide
theorem test_encode_encode4 : encode (.encode4 0#27) = ctrlWrite 0x80000004#32 := by decide
theorem test_table_word_rd : decodeTableWord 8 0x18 = some (.rd .status 0) := by decide
theorem test_table_word_ctrl : decodeTableWord 32 0x80000005 = some (.buildframe4 0#27) := by decide

/-! ### The encoders (95 T1, T2, S2, S5) -/

theorem test_chan3_23 : chan3 0x23#8 = [0x93#8, 0x49#8, 0x36#8] := by decide
theorem test_chan3_one_hot : chan3 0x08#8 = [0x92#8, 0x4D#8, 0x24#8] := by decide
theorem test_chan4_1B : chan4 0x1B#8 = [0x88#8, 0x8E#8, 0xE8#8, 0xEE#8] := by decide
theorem test_chan4_C3 : chan4 0xC3#8 = [0xEE#8, 0x88#8, 0x88#8, 0xEE#8] := by decide
theorem test_w24_23 : w24 0x23#8 = 0x934936#24 := by decide
theorem test_w32_C3 : w32 0xC3#8 = 0xEE8888EE#32 := by decide
theorem test_dec3_23 : dec3 [0x93#8, 0x49#8, 0x36#8] = 0x23#8 := by decide
theorem test_dec4_23 : dec4 [0x88#8, 0xE8#8, 0x88#8, 0xEE#8] = some 0x23#8 := by decide

/-- 95 section 2.2, color 0x123456: green, red, blue. -/
theorem test_encodeColor3 : encodeColor .threeBit ⟨0x12#8, 0x34#8, 0x56#8⟩ =
    [0x93#8, 0x69#8, 0xA4#8, 0x92#8, 0x69#8, 0x34#8, 0x9A#8, 0x69#8, 0xB4#8] := by decide

/-- 95 section 2.2, color 0x0180AA. -/
theorem test_encodeColor4 : encodeColor .fourBit ⟨0x01#8, 0x80#8, 0xAA#8⟩ =
    [0xE8#8, 0x88#8, 0x88#8, 0x88#8, 0x88#8, 0x88#8, 0x88#8, 0x8E#8, 0xE8#8, 0xE8#8, 0xE8#8, 0xE8#8] := by
  decide

/-! ### The commands: acceptance by the host's step, the work by the core's step -/

/-- The registers of vector K1. -/
def bK1 : Block := { b0 with color := ⟨0x23#8, 0#8, 0#8⟩, dstAddr := 0x1000#32, dstCap := 9#32 }

theorem test_encode3_accepted :
    (ran (.bus (ctrlWrite 0x80000000#32)) (st bK1)).block = { bK1 with status := Status.accepted } := by
  decide

/-- K1: bytes, STATUS and BYTE_COUNT. -/
theorem test_encode3_K1 :
    (coreStep (st (running bK1))).mem.readBytes 0x1000 10 =
      [0x92#8, 0x49#8, 0x24#8, 0x93#8, 0x49#8, 0x36#8, 0x92#8, 0x49#8, 0x24#8, 0x00#8] ∧
    (coreStep (st (running bK1))).block.value .status = 0x00000002#32 ∧
    (coreStep (st (running bK1))).block.value .byteCount = 9#32 := by decide

/-- K2. -/
theorem test_encode4_K2 :
    (coreStep (st (running { bK1 with scheme := 1#2, dstCap := 12#32 }))).mem.readBytes 0x1000 12 =
      [0x88#8, 0x88#8, 0x88#8, 0x88#8, 0x88#8, 0xE8#8, 0x88#8, 0xEE#8, 0x88#8, 0x88#8, 0x88#8, 0x88#8] := by
  decide

/-- The registers of vector K4. -/
def bK4 : Block :=
  { b0 with op := 1#2, scheme := 1#2, ledCount := 2#16, srcAddr := 0x2000#32, dstAddr := 0x3000#32,
            dstCap := 24#32 }

/-- The source bytes of vector K4. -/
def mK4 : Memory :=
  [(0x2000, 0x12#8), (0x2001, 0x34#8), (0x2002, 0x56#8), (0x2003, 0xFF#8), (0x2005, 0x80#8)]

/-- K3. -/
theorem test_buildframe3_K3 :
    (coreStep (st (running { bK4 with scheme := 0#2, ledCount := 1#16, dstCap := 9#32 })
      [(0x2000, 0x23#8)])).mem.readBytes 0x3000 9 =
      [0x92#8, 0x49#8, 0x24#8, 0x93#8, 0x49#8, 0x36#8, 0x92#8, 0x49#8, 0x24#8] := by decide

/-- K4, vector F3. -/
theorem test_buildframe4_K4 :
    (coreStep (st (running bK4) mK4)).mem.readBytes 0x3000 24 =
      [0x88#8, 0xEE#8, 0x8E#8, 0x88#8, 0x88#8, 0x8E#8, 0x88#8, 0xE8#8, 0x8E#8, 0x8E#8, 0x8E#8, 0xE8#8,
        0x88#8, 0x88#8, 0x88#8, 0x88#8, 0xEE#8, 0xEE#8, 0xEE#8, 0xEE#8, 0xE8#8, 0x88#8, 0x88#8, 0x88#8] := by
  decide

/-- K6. -/
theorem test_buildsingle3_K6 :
    (coreStep (st (running { b0 with op := 2#2, color := ⟨0#8, 0xFF#8, 0#8⟩, ledCount := 2#16,
                                     dstAddr := 0x4000#32, dstCap := 18#32 }))).mem.readBytes 0x4000 18 =
      [0xDB#8, 0x6D#8, 0xB6#8, 0x92#8, 0x49#8, 0x24#8, 0x92#8, 0x49#8, 0x24#8,
        0xDB#8, 0x6D#8, 0xB6#8, 0x92#8, 0x49#8, 0x24#8, 0x92#8, 0x49#8, 0x24#8] := by decide

/-- K7. -/
theorem test_buildsingle4_K7 :
    (coreStep (st (running { b0 with op := 2#2, scheme := 1#2, color := ⟨0xFF#8, 0xFF#8, 0xFF#8⟩,
                                     ledCount := 1#16, dstAddr := 0x5000#32,
                                     dstCap := 12#32 }))).mem.readBytes 0x5000 12 =
      List.replicate 12 0xEE#8 := by decide

/-- STATUS after the core's step of a running command. -/
def statusAfter (b : Block) : Word := (coreStep (st (running b))).block.value .status

/-- K9: an empty frame is never in error. -/
theorem test_empty_frame_K9 :
    statusAfter { b0 with op := 1#2, scheme := 1#2, srcAddr := 0x40000000#32, dstAddr := 0xFFFFFFFF#32 } =
      0x00000002#32 := by decide

/-- K12: OP is checked first. -/
theorem test_reservedOp_K12 : statusAfter { b0 with op := 3#2, scheme := 2#2 } = 0x00000016#32 := by decide

/-- K13, K14 and the four other reserved rows. -/
theorem test_reservedScheme9_K13 : statusAfter { b0 with op := 1#2, scheme := 2#2 } = 0x00000026#32 := by decide
theorem test_reservedSchemeC_K14 : statusAfter { b0 with op := 0#2, scheme := 3#2 } = 0x00000026#32 := by decide
theorem test_reservedScheme8 : statusAfter { b0 with op := 0#2, scheme := 2#2 } = 0x00000026#32 := by decide
theorem test_reservedSchemeA : statusAfter { b0 with op := 2#2, scheme := 2#2 } = 0x00000026#32 := by decide
theorem test_reservedSchemeD : statusAfter { b0 with op := 1#2, scheme := 3#2 } = 0x00000026#32 := by decide
theorem test_reservedSchemeE : statusAfter { b0 with op := 2#2, scheme := 3#2 } = 0x00000026#32 := by decide

/-- K15 and the highest destination that passes the wrap test (R143). -/
theorem test_addrRange_K15 : statusAfter { b0 with dstAddr := 0xFFFFFFF8#32, dstCap := 9#32 } = 0x36#32 := by
  decide
theorem test_wrap_boundary :
    check vectorPlatform.span { b0 with dstAddr := 0xFFFFFFF7#32, dstCap := 9#32 } = none := by decide

/-- K16, K17. -/
theorem test_addrRange_K16 :
    statusAfter { b0 with scheme := 1#2, dstAddr := 0x3FFFFFF8#32, dstCap := 12#32 } = 0x36#32 := by decide
theorem test_addrRange_K17 :
    statusAfter { b0 with op := 1#2, ledCount := 1#16, srcAddr := 0x4000001E#32, dstAddr := 0x1000#32,
                          dstCap := 9#32 } = 0x36#32 := by decide

/-- K20, K21, K22, K24: CAPACITY, and the priority of the checks. -/
theorem test_capacity_K20 :
    statusAfter { b0 with op := 2#2, scheme := 1#2, ledCount := 3#16, dstAddr := 0x1000#32, dstCap := 24#32 } =
      0x46#32 := by decide
theorem test_priority_K21 : statusAfter { b0 with dstAddr := 0xFFFFFFF8#32 } = 0x36#32 := by decide
theorem test_overlap_K22 :
    statusAfter { b0 with op := 1#2, ledCount := 2#16, srcAddr := 0x1000#32, dstAddr := 0x1004#32,
                          dstCap := 18#32 } = 0x56#32 := by decide
theorem test_priority_K24 :
    statusAfter { b0 with op := 1#2, ledCount := 2#16, srcAddr := 0x1000#32, dstAddr := 0x1004#32,
                          dstCap := 17#32 } = 0x46#32 := by decide

/-- K23: ranges that touch do not share a byte. -/
theorem test_touching_K23 :
    (coreStep (st (running { b0 with op := 1#2, ledCount := 2#16, srcAddr := 0x1000#32, dstAddr := 0x1006#32,
                                     dstCap := 18#32 })
      [(0x1000, 0x23#8), (0x1004, 0xFF#8)])).mem.readBytes 0x1006 12 =
      [0x92#8, 0x49#8, 0x24#8, 0x93#8, 0x49#8, 0x36#8, 0x92#8, 0x49#8, 0x24#8, 0xDB#8, 0x6D#8, 0xB6#8] := by
  decide

/-- K26. -/
theorem test_not_admitted_K26 :
    (coreStep (st (running { b0 with scheme := 1#2, dstAddr := 0xFFFFFFF4#32, dstCap := 12#32 }))).faults =
      [.memNotAdmitted] := by decide

/-! ### Register access (95 A2 to A8, A10 to A12) -/

theorem test_rd_after_reset_A1 :
    (ran (.bus ⟨.read 4, 0x18#8, 4⟩) (st b0)).vars = [(4, 0x00000000#32)] := by decide
theorem test_rd_ctrl_A4 :
    (ran (.bus ⟨.read 0, 0x00#8, 4⟩) (st { b0 with op := 3#2, scheme := 3#2 })).vars = [(0, 0x0000000F#32)] := by
  decide
theorem test_wr_ledCount_A2 :
    (ran (.bus ⟨.write 0x00012345#32, 0x04#8, 4⟩) (st b0)).block.value .ledCount = 0x00002345#32 := by decide
theorem test_wr_color_A3 :
    (ran (.bus ⟨.write 0xFF123456#32, 0x08#8, 4⟩) (st b0)).block.value .color = 0x00123456#32 := by decide
theorem test_ctrlset_A5 :
    (ran (.bus (ctrlWrite 0x7FFFFFF5#32)) (st b0)).block.value .ctrl = 0x00000005#32 := by decide
theorem test_wr_status_A6 : (ran (.bus ⟨.write 0xFFFFFFFF#32, 0x18#8, 4⟩) (st b0)).block = b0 := by decide
theorem test_bad_access_A8 :
    (ran (.bus ⟨.read 0, 0x18#8, 1⟩) (st b0)).faults = [.badRegAccess] ∧
    (ran (.bus ⟨.read 0, 0x18#8, 1⟩) (st b0)).vars = [] ∧
    (ran (.bus ⟨.write 5#32, 0x02#8, 4⟩) (st b0)).block = b0 := by decide
theorem test_busy_write_A10 :
    (ran (.bus ⟨.write 5#32, 0x04#8, 4⟩) (st (running bK1))).block.value .ledCount = 0#32 ∧
    (ran (.bus ⟨.write 5#32, 0x04#8, 4⟩) (st (running bK1))).block.value .status = 0x9#32 := by decide
theorem test_busy_start_A11 :
    (ran (.bus (ctrlWrite 0x80000004#32)) (st (running bK1))).block.value .ctrl = 0#32 := by decide

/-! ### Host, transport, reset and hazards (95 X1, X2, H3 to H9; 43 R167, R168) -/

theorem test_mwr_mrd :
    (ran (.mwr 0x2000#32 0x23#8) (st b0)).mem = [(0x2000, 0x23#8)] ∧
    (ran (.mrd 0x2000#32 1) (st b0 [(0x2000, 0x23#8)])).vars = [(1, 0x23#32)] := by decide
theorem test_mwr_register_span :
    (ran (.mwr 0x40000004#32 0x23#8) (st b0)).faults = [.badRegAccess] ∧
    (ran (.mwr 0x40000004#32 0x23#8) ((st b0).withOwned [⟨0x40000000, 8⟩])).faults =
      [.badRegAccess, .ownedBufferWritten] := by decide
theorem test_bnz_taken :
    (after (execBnz 0 0x1#32 9 (((st b0).setVar 0 0x3#32).withProgram [⟨none, .xwait⟩, ⟨some 9, .xwait⟩]))
      (st b0)).hpc = 1 := by decide
theorem test_bz_mask_zero_taken :
    (after (execBz 0 0x0#32 9 (((st b0).setVar 0 0x46#32).withProgram [⟨none, .xwait⟩, ⟨none, .xwait⟩,
      ⟨some 9, .xwait⟩])) (st b0)).hpc = 2 := by decide

/-- X1: the wire of `93 49 36` is `100 100 110 100 100 100 110 110` (T4). -/
theorem test_wire_T4 : wire [0x93#8, 0x49#8, 0x36#8] =
    [true, false, false, true, false, false, true, true, false, true, false, false,
      true, false, false, true, false, false, true, true, false, true, true, false] := by decide
theorem test_xmit_async_X2 : (ran (.xmit 0x3000#32 24 .async) (st b0)).owned = [⟨0x3000, 24⟩] := by decide
theorem test_xmit_sync : (ran (.xmit 0x3000#32 24 .sync) (st b0)).owned = [] := by decide
theorem test_transport_completes : (transportStep 0 ((st b0).withOwned [⟨0x3000, 24⟩])).owned = [] := by decide
theorem test_xwait_held : (ran .xwait ((st b0).withOwned [⟨0x3000, 24⟩])).hpc = 0 := by decide
/-- R67, R84: settle goes on with a transfer in flight, and its delay is T_SETTLE there too. -/
theorem test_settle_in_flight :
    (ran .settle ((st b0).withOwned [⟨0x3000, 24⟩])).hpc = 1 ∧
    (ran .settle ((st b0).withOwned [⟨0x3000, 24⟩])).line = [.settle 300] := by decide
theorem test_settle : (ran .settle (st b0)).line = [.settle 300] := by decide
theorem test_H3 :
    (ran (.bus (ctrlWrite 0x80000005#32)) ((st bK4).withOwned [⟨0x3000, 24⟩])).faults =
      [.dstOwnedByTransport] := by decide
theorem test_H4 :
    (ran (.xmit 0x3000#32 24 .sync) (st (running bK4) mK4)).faults = [.transmitWhileBusy] := by decide
theorem test_H5 :
    (ran (.mwr 0x3005#32 0#8) ((st b0).withOwned [⟨0x3000, 24⟩])).faults = [.ownedBufferWritten] := by decide
theorem test_H6 : (ran (.mwr 0x2001#32 0#8) (st (running bK4) mK4)).faults = [.srcWrittenWhileBusy] := by decide
theorem test_H7 : (ran (.mwr 0x3000#32 0#8) (st (running bK4) mK4)).faults = [.dstWrittenWhileBusy] := by decide

/-- R239 for a range that runs past the last address. -/
theorem test_xmit_past_the_end_hazard :
    (ran (.xmit 0xFFFFFFFF#32 2 .async) (st (running { bK1 with dstAddr := 0xFFFFFFF7#32 }))).faults =
      [.transmitWhileBusy] := by decide

/-- H8: the new value a draw may give is 0x88. -/
theorem test_H8 : (st (running bK4) mK4).newByte 0x3000 = 0x88#8 := by decide
theorem test_H9 : (ran (.mrd 0x2000#32 0) (st (running bK4) mK4)).vars = [(0, 0x12#32)] := by decide
theorem test_reset_idle_H1 :
    (blockReset (st bK4 mK4)).block = Block.reset ∧ (blockReset (st bK4 mK4)).mem = mK4 := by decide

/-- The bytes of K1, sent at the ThreeBit clock. -/
def sentK1 : State := ((coreStep (st (running bK1))).withBitClock 24).transmit 0x1000 9 .sync

/-- The same once the settle delay has followed (R169's premise). -/
def settledK1 : State := ran .settle sentK1

/-- X1: LED 0 shows `23 00 00`; LED 1, which the frame does not reach, keeps its color (as in X3). -/
theorem test_led_X1 : settledK1.ledShows .threeBit 0 ⟨7#8, 7#8, 7#8⟩ = ⟨0x23#8, 0x00#8, 0x00#8⟩ := by decide
theorem test_led_kept_X3 : settledK1.ledShows .threeBit 1 ⟨7#8, 7#8, 7#8⟩ = ⟨7#8, 7#8, 7#8⟩ := by decide
theorem test_slot_X2 :
    slotColor .fourBit (wire ((coreStep (st (running bK4) mK4)).mem.readBytes 0x3000 24)) 1 =
      some ⟨0xFF#8, 0x00#8, 0x80#8⟩ := by decide

/-! ### The step -/

theorem test_step_runs_fetch_word :
    (after (step ((st bK1).withFetchWord 32 0x80000000)) (st b0)).block =
      { bK1 with status := Status.accepted } := by decide
theorem test_step_faulted_stops :
    (match step ((st b0).addFault .ownedBufferWritten) with
      | .fault f => some f
      | _ => none) = some (.modelFault .ownedBufferWritten) := by decide
theorem test_step_core :
    (after (step ((st (running bK1)).withAgenda [.core])) (st b0)).block.value .status = 0x2#32 := by decide
theorem test_first_fetch_after_reset :
    (after (step (State.reset.withFetchWord 32 0x80000005)) State.reset).block.value .ctrl = 0x5#32 := by
  decide

theorem test_glitch_corrupts_frame :
    (framesOf 280 (lineGlitch sentK1).line).current.corrupted = true := by decide

/-- R189: transfers with no settle longer than the latch threshold between them are one frame, which such a settle
ends; the transfer after it begins the next. -/
theorem test_frames_R189 :
    framesOf 280 [.transfer [true] 1, .settle 280, .transfer [false] 2, .settle 281, .transfer [true] 3] =
      ⟨[⟨[true, false], [1, 2], false⟩], ⟨[true], [3], false⟩⟩ := by decide

/-! ### Witnesses: each statement's hypotheses are met together, at the boundaries where its clauses meet -/

/-- The platform of the vectors admits an address below 0x10000. -/
theorem memOK_low {a : Nat} (h : a < 0x10000) : vectorPlatform.MemOK a :=
  ⟨⟨0, 0x10000⟩, by decide, Nat.zero_le a, by simpa using h⟩

theorem witness_DecodeOfEncode : (Instr.wr .byteCount 0xFFFFFFFF#32).wf = true := by decide
theorem witness_EncodeOfDecode : ∃ i, decode ⟨.write 0xFFFFFFFF#32, 0x1C#8, 4⟩ = .ok i := ⟨_, rfl⟩
theorem witness_CtrlWords_ctrlset : 0x7FFFFFFF#32 &&& 0x80000000#32 = 0x00000000#32 := by decide
theorem witness_CtrlWords_encode3 : 0xFFFFFFF0#32 &&& 0x8000000F#32 = 0x80000000#32 := by decide
theorem witness_CtrlWords_encode4 : 0xFFFFFFF4#32 &&& 0x8000000F#32 = 0x80000004#32 := by decide
theorem witness_CtrlWords_buildframe3 : 0xFFFFFFF1#32 &&& 0x8000000F#32 = 0x80000001#32 := by decide
theorem witness_CtrlWords_buildframe4 : 0xFFFFFFF5#32 &&& 0x8000000F#32 = 0x80000005#32 := by decide
theorem witness_CtrlWords_buildsingle3 : 0xFFFFFFF2#32 &&& 0x8000000F#32 = 0x80000002#32 := by decide
theorem witness_CtrlWords_buildsingle4 : 0xFFFFFFF6#32 &&& 0x8000000F#32 = 0x80000006#32 := by decide
theorem witness_CtrlWords_reservedOp : 0xFFFFFFFF#32 &&& 0x80000003#32 = 0x80000003#32 := by decide
theorem witness_CtrlWords_reserved8 : 0xFFFFFFF8#32 &&& 0x8000000F#32 = 0x80000008#32 := by decide
theorem witness_CtrlWords_reserved9 : 0xFFFFFFF9#32 &&& 0x8000000F#32 = 0x80000009#32 := by decide
theorem witness_CtrlWords_reservedA : 0xFFFFFFFA#32 &&& 0x8000000F#32 = 0x8000000A#32 := by decide
theorem witness_CtrlWords_reservedC : 0xFFFFFFFC#32 &&& 0x8000000F#32 = 0x8000000C#32 := by decide
theorem witness_CtrlWords_reservedD : 0xFFFFFFFD#32 &&& 0x8000000F#32 = 0x8000000D#32 := by decide
theorem witness_CtrlWords_reservedE : 0xFFFFFFFE#32 &&& 0x8000000F#32 = 0x8000000E#32 := by decide
theorem witness_OnlyAligned_last_register :
    (0x1C#8).toNat < 0x20 ∧ (0x1C#8).toNat ∈ [0x00, 0x04, 0x08, 0x0C, 0x10, 0x14, 0x18, 0x1C] := by decide
theorem witness_OnlyAligned_misaligned :
    (0x1F#8).toNat < 0x20 ∧ (0x1F#8).toNat ∉ [0x00, 0x04, 0x08, 0x0C, 0x10, 0x14, 0x18, 0x1C] := by decide
theorem witness_ByteAccesses_last_byte :
    (st b0).platform.regBase.val ≤ (0x4000001F#32).toNat ∧
    (0x4000001F#32).toNat < (st b0).platform.regBase.val + 0x20 := by decide
theorem witness_ByteAccesses_outside : 0x20 ≤ (⟨.read 0, 0x20#8, 4⟩ : BusAccess).offset.toNat := by decide

theorem witness_WrStoresTheMaskedValue :
    Reg.dstCap ∈ Spec.writable ∧ (st b0).block.status.busy = false := by decide
theorem witness_WrToReadOnlyChangesNothing :
    Reg.byteCount ∈ [Reg.status, Reg.byteCount] ∧ (st b0).block.status.busy = false := by decide
theorem witness_WriteWhileBusySetsIgnored :
    (∀ r v, Instr.encode4 0#27 ≠ .rd r v) ∧ (st (running bK1)).block.status.busy = true :=
  ⟨fun _ _ h => (by cases h), by decide⟩
theorem witness_CtrlsetSetsTheSelectors : (st bK4).block.status.busy = false := by decide
theorem witness_StartIsAcceptedWhileIdle :
    Spec.startSelectors (.buildframe4 0#27) = some (0b01#2, 0b01#2) ∧ (st bK4).block.status.busy = false := by
  decide
/-- The fault's clause: slot 0 of K4's destination starts at the last byte of a range in flight (H3). -/
theorem witness_StartIsAccepted_owned :
    ∃ q ∈ ((st bK4).withOwned [⟨0x2FFF, 2⟩]).owned,
      Spec.Shares q.base q.size bK4.dstAddr.toNat (12 * bK4.ledCount.toNat) :=
  ⟨⟨0x2FFF, 2⟩, by decide, 0x3000, by decide⟩

theorem witness_EncodeWritesOneSlot :
    (st bK1).mem.wf ∧ (st bK1).block.status.busy = false ∧ bK1.dstAddr.toNat + Spec.slotBytes .threeBit ≤ 2 ^ 32 ∧
    ¬ Spec.Shares bK1.dstAddr.toNat (Spec.slotBytes .threeBit) vectorPlatform.regBase.val 0x20 ∧
    Spec.slotBytes .threeBit ≤ bK1.dstCap.toNat ∧
    ∀ k < Spec.slotBytes .threeBit, vectorPlatform.MemOK (bK1.dstAddr.toNat + k) := by
  refine ⟨by decide, by decide, by decide, ?_, by decide, ?_⟩
  · rintro ⟨a, -, h2, h3, -⟩
    have h2 : a < 0x1000 + 9 := h2
    have h3 : 0x40000000 ≤ a := h3
    omega
  · intro k hk
    have hk : k < 9 := hk
    exact memOK_low (show 0x1000 + k < 0x10000 by omega)
theorem witness_BuildframeWritesEverySlot :
    (st bK4 mK4).mem.wf ∧ (st bK4 mK4).block.status.busy = false ∧ (2 : Nat) = bK4.ledCount.toNat ∧
    24 = Spec.slotBytes .fourBit * 2 ∧ bK4.dstAddr.toNat + 24 ≤ 2 ^ 32 ∧
    ¬ Spec.Shares bK4.dstAddr.toNat 24 vectorPlatform.regBase.val 0x20 ∧ bK4.srcAddr.toNat + 3 * 2 ≤ 2 ^ 32 ∧
    ¬ Spec.Shares bK4.srcAddr.toNat (3 * 2) vectorPlatform.regBase.val 0x20 ∧ 24 ≤ bK4.dstCap.toNat ∧
    ¬ Spec.Shares bK4.srcAddr.toNat (3 * 2) bK4.dstAddr.toNat 24 ∧
    (∀ k < 24, vectorPlatform.MemOK (bK4.dstAddr.toNat + k)) ∧
    ∀ k < 3 * 2, vectorPlatform.MemOK (bK4.srcAddr.toNat + k) := by
  refine ⟨by decide, by decide, by decide, by decide, by decide, ?_, by decide, ?_, by decide, ?_, ?_, ?_⟩
  · rintro ⟨a, -, h2, h3, -⟩
    have h2 : a < 0x3000 + 24 := h2
    have h3 : 0x40000000 ≤ a := h3
    omega
  · rintro ⟨a, -, h2, h3, -⟩
    have h2 : a < 0x2000 + 6 := h2
    have h3 : 0x40000000 ≤ a := h3
    omega
  · rintro ⟨a, -, h2, h3, -⟩
    have h2 : a < 0x2000 + 6 := h2
    have h3 : 0x3000 ≤ a := h3
    omega
  · exact fun k hk => memOK_low (show 0x3000 + k < 0x10000 by omega)
  · exact fun k hk => memOK_low (show 0x2000 + k < 0x10000 by omega)

/-- The registers of vector K6. -/
def bK6 : Block :=
  { b0 with op := 2#2, color := ⟨0#8, 0xFF#8, 0#8⟩, ledCount := 2#16, dstAddr := 0x4000#32, dstCap := 18#32 }

theorem witness_BuildsingleFillsEverySlot :
    (st bK6).mem.wf ∧ (st bK6).block.status.busy = false ∧ (2 : Nat) = bK6.ledCount.toNat ∧
    18 = Spec.slotBytes .threeBit * 2 ∧ bK6.dstAddr.toNat + 18 ≤ 2 ^ 32 ∧
    ¬ Spec.Shares bK6.dstAddr.toNat 18 vectorPlatform.regBase.val 0x20 ∧ 18 ≤ bK6.dstCap.toNat ∧
    ∀ k < 18, vectorPlatform.MemOK (bK6.dstAddr.toNat + k) := by
  refine ⟨by decide, by decide, by decide, by decide, by decide, ?_, by decide, ?_⟩
  · rintro ⟨a, -, h2, h3, -⟩
    have h2 : a < 0x4000 + 18 := h2
    have h3 : 0x40000000 ≤ a := h3
    omega
  · exact fun k hk => memOK_low (show 0x4000 + k < 0x10000 by omega)

theorem witness_ReservedOpCompletesWithBadOp : (st b0).block.status.busy = false := by decide
theorem witness_ReservedSchemeCompletesWithBadScheme :
    Instr.reservedSchemeE 0#27 ∈ Spec.reservedSchemeRows 0#27 ∧ (st b0).block.status.busy = false := by decide

/-! `CheckFollowsThePriority`, clause by clause; in each, the later clauses' errors apply too where they can. -/

/-- BAD_OP comes before BAD_SCHEME. -/
theorem witness_Check_badOp : ({ b0 with op := 3#2, scheme := 2#2 } : Block).op = 0b11#2 := by decide
/-- BAD_SCHEME comes before everything about ranges. -/
theorem witness_Check_badScheme :
    let b : Block := { b0 with op := 0#2, scheme := 2#2, dstAddr := 0xFFFFFFFF#32 }
    b.op ≠ 0b11#2 ∧ (b.scheme = 0b10#2 ∨ b.scheme = 0b11#2) := by decide
/-- The sizes and addresses that the statement's first hypotheses give, with both selectors defined. -/
abbrev CheckSizes (b : Block) (nb sb dst src : Nat) : Prop :=
  nb = (if b.scheme = 0b00#2 then 9 else 12) * (if b.op = 0b00#2 then 1 else b.ledCount.toNat) ∧
  sb = (if b.op = 0b01#2 then 3 * b.ledCount.toNat else 0) ∧ dst = b.dstAddr.toNat ∧ src = b.srcAddr.toNat ∧
  b.op ≠ 0b11#2 ∧ (b.scheme = 0b00#2 ∨ b.scheme = 0b01#2)
/-- One byte past the end: 0xFFFFFFF8 + 9 = 2^32 + 1, with capacity 0. -/
theorem witness_Check_destination_wraps :
    CheckSizes { b0 with dstAddr := 0xFFFFFFF8#32 } 9 0 0xFFFFFFF8 0 ∧ 9 > 0 ∧ 0xFFFFFFF8 + 9 > 2 ^ 32 := by decide
/-- The source's last byte is the span's first. -/
theorem witness_Check_source_meets_span :
    CheckSizes { b0 with op := 1#2, ledCount := 1#16, srcAddr := 0x3FFFFFFE#32 } 9 3 0 0x3FFFFFFE ∧ 3 > 0 ∧
    Spec.Shares 0x3FFFFFFE 3 0x40000000 0x20 := ⟨by decide, by decide, 0x40000000, by decide⟩
/-- The destination ends one byte below the span, and the capacity is one byte short. -/
theorem witness_Check_capacity :
    CheckSizes { b0 with dstAddr := 0x3FFFFFF7#32, dstCap := 8#32 } 9 0 0x3FFFFFF7 0 ∧
    ¬ (9 > 0 ∧ (0x3FFFFFF7 + 9 > 2 ^ 32 ∨ Spec.Shares 0x3FFFFFF7 9 0x40000000 0x20) ∨
      0 > 0 ∧ (0 + 0 > 2 ^ 32 ∨ Spec.Shares 0 0 0x40000000 0x20)) ∧ 9 > (8#32).toNat := by
  refine ⟨by decide, ?_, by decide⟩
  rintro (⟨-, h | ⟨a, -, h2, h3, -⟩⟩ | ⟨h, -⟩) <;> omega
/-- The capacity is exact, and the source's last byte is the destination's first. -/
theorem witness_Check_overlap :
    CheckSizes { b0 with op := 1#2, ledCount := 2#16, srcAddr := 0x1000#32, dstAddr := 0x1005#32, dstCap := 18#32 }
      18 6 0x1005 0x1000 ∧
    ¬ (18 > 0 ∧ (0x1005 + 18 > 2 ^ 32 ∨ Spec.Shares 0x1005 18 0x40000000 0x20) ∨
      6 > 0 ∧ (0x1000 + 6 > 2 ^ 32 ∨ Spec.Shares 0x1000 6 0x40000000 0x20)) ∧
    18 ≤ (18#32).toNat ∧ 6 > 0 ∧ Spec.Shares 0x1000 6 0x1005 18 := by
  refine ⟨by decide, ?_, by decide, by decide, 0x1005, by decide⟩
  rintro (⟨-, h | ⟨a, -, h2, h3, -⟩⟩ | ⟨-, h | ⟨a, -, h2, h3, -⟩⟩) <;> omega
/-- The ranges touch and share nothing (K23). -/
theorem witness_Check_none :
    CheckSizes { b0 with op := 1#2, ledCount := 2#16, srcAddr := 0x1000#32, dstAddr := 0x1006#32, dstCap := 18#32 }
      18 6 0x1006 0x1000 ∧
    ¬ (18 > 0 ∧ (0x1006 + 18 > 2 ^ 32 ∨ Spec.Shares 0x1006 18 0x40000000 0x20) ∨
      6 > 0 ∧ (0x1000 + 6 > 2 ^ 32 ∨ Spec.Shares 0x1000 6 0x40000000 0x20)) ∧
    18 ≤ (18#32).toNat ∧ ¬ (6 > 0 ∧ Spec.Shares 0x1000 6 0x1006 18) := by
  refine ⟨by decide, ?_, by decide, ?_⟩
  · rintro (⟨-, h | ⟨a, -, h2, h3, -⟩⟩ | ⟨-, h | ⟨a, -, h2, h3, -⟩⟩) <;> omega
  · rintro ⟨-, a, -, h2, h3, -⟩
    omega

theorem witness_ErrorCompletionTouchesNoMemory :
    (st (running { bK1 with dstCap := 8#32 })).block.status.busy = true ∧
    check vectorPlatform.span (running { bK1 with dstCap := 8#32 }) = some .capacity := by decide
theorem witness_SuccessfulCompletion :
    (st (running bK4) mK4).mem.wf ∧ (st (running bK4) mK4).block.status.busy = true ∧
    check vectorPlatform.span (running bK4) = none ∧ vectorPlatform.Admits (running bK4).srcRange ∧
    vectorPlatform.Admits (running bK4).dstRange := by decide
theorem witness_CoreStepFrame : (st (running bK4) mK4).mem.wf ∧ ¬ (running bK4).dstRange.Contains 0x3018 := by decide
theorem witness_CoreStepFrame_idle : (st bK4 mK4).block.status.busy = false := by decide
theorem witness_NotAdmittedStopsTheRun :
    let b := running { bK1 with dstAddr := 0xFFF8#32 }
    (st b).block.status.busy = true ∧ check vectorPlatform.span b = none ∧
    b.dstRange.Contains 0x10000 ∧ ¬ vectorPlatform.MemOK 0x10000 := by decide
theorem witness_ZeroCountCompletesWithoutError :
    let b := running { b0 with op := 1#2, scheme := 1#2, dstAddr := 0xFFFFFFFF#32 }
    (st b).block.status.busy = true ∧ (b.op = 0b01#2 ∨ b.op = 0b10#2) ∧
    (b.scheme = 0b00#2 ∨ b.scheme = 0b01#2) ∧ b.ledCount = 0#16 := by decide
theorem witness_CommandIsIdempotent :
    (st (running bK1)).mem.wf ∧ (st (running bK1)).block.status.busy = true ∧
    check vectorPlatform.span (running bK1) = none ∧ vectorPlatform.Admits (running bK1).srcRange ∧
    vectorPlatform.Admits (running bK1).dstRange := by decide
theorem witness_EncodeColorIsInjective :
    encodeColor .fourBit ⟨0xFF#8, 0#8, 0xFF#8⟩ = encodeColor .fourBit ⟨0xFF#8, 0#8, 0xFF#8⟩ := rfl
theorem witness_FrameSliceLaw : 1 < [Color.mk 0#8 0#8 0#8, ⟨1#8, 2#8, 3#8⟩].length ∧ 1 < 2 := by decide
theorem witness_FrameSizeLaw : 1 ≤ [Color.mk 1#8 2#8 3#8].length := by decide
theorem witness_WireCarriesTheColors : 0 < [Color.mk 1#8 2#8 3#8].length := by decide

/-- The buffer of K1, complete, with the clock set for ThreeBit. -/
def builtK1 : State := (coreStep (st (running bK1))).withBitClock 24

theorem witness_SentFrameIsShown :
    builtK1.faults = [] ∧ builtK1.owned = [] ∧ builtK1.line = [] ∧ builtK1.block.status.busy = false ∧
    builtK1.bitClock = builtK1.platform.fBit .threeBit ∧
    builtK1.platform.timingOK .threeBit = true ∧ [Color.mk 0x23#8 0#8 0#8] ≠ [] ∧
    (0x1000#32).toNat + Spec.slotBytes .threeBit * 1 ≤ 2 ^ 32 ∧
    builtK1.mem.readBytes (0x1000#32).toNat (Spec.slotBytes .threeBit * 1) =
      frame .threeBit [⟨0x23#8, 0#8, 0#8⟩] 1 := by decide
/-- The second frame of a run, while a command builds into another buffer (R187). -/
theorem witness_SentFrameIsShown_later :
    let s := settledK1.withBlock (running bK4)
    s.faults = [] ∧ s.owned = [] ∧ s.line = sentK1.line ++ [.settle 300] ∧ s.platform.latch < 300 ∧
    s.block.status.busy = true ∧ s.block.dstRange = ⟨0x3000, 24⟩ ∧ s.bitClock = s.platform.fBit .threeBit ∧
    s.mem.readBytes (0x1000#32).toNat (Spec.slotBytes .threeBit * 1) =
      frame .threeBit [⟨0x23#8, 0#8, 0#8⟩] 1 := by decide
theorem witness_SentFrameIsShown_no_hazard : ¬ Spec.Shares 0x1000 9 0x3000 24 := by
  rintro ⟨a, -, h2, h3, -⟩
  omega
theorem witness_Xmit_past_the_end :
    2 ^ 32 < (0xFFFFFFFF#32).toNat + 2 ∧ (st b0).block.status.busy = false := by decide
/-- One byte past the end, over the last byte of a running command's destination. -/
theorem witness_Xmit_past_the_end_hazard :
    let b := running { bK1 with dstAddr := 0xFFFFFFF7#32 }
    2 ^ 32 < (0xFFFFFFFF#32).toNat + 2 ∧ (st b).block.status.busy = true ∧
    Spec.Shares (0xFFFFFFFF#32).toNat 2 b.dstRange.base b.dstRange.size := ⟨by decide, by decide, 0xFFFFFFFF, by decide⟩
theorem witness_Xmit_last_byte : (0xFFFFFFFF#32).toNat + 1 ≤ 2 ^ 32 := by decide
theorem witness_Xmit_hazard :
    (st (running bK4)).block.status.busy = true ∧
    Spec.Shares 0x2FFF 2 (running bK4).dstRange.base (running bK4).dstRange.size :=
  ⟨by decide, 0x3000, by decide⟩
theorem witness_Waits_none_in_flight : (st b0).owned = [] := by decide
theorem witness_Waits_in_flight :
    ((st b0).withOwned [⟨0x3000, 24⟩]).owned ≠ [] ∧ 0 < ((st b0).withOwned [⟨0x3000, 24⟩]).owned.length := by decide
/-- The last byte below the register span. -/
theorem witness_HostWriteAndItsHazards :
    (st b0).mem.wf ∧ ¬ ((st b0).platform.regBase.val ≤ (0x3FFFFFFF#32).toNat ∧
      (0x3FFFFFFF#32).toNat < (st b0).platform.regBase.val + 0x20) := by decide
/-- The first byte above the register span. -/
theorem witness_HostReadIsOldOrNew :
    ¬ ((st b0).platform.regBase.val ≤ (0x40000020#32).toNat ∧
      (0x40000020#32).toNat < (st b0).platform.regBase.val + 0x20) := by decide
/-- Variable 0 is written, and label 9 is defined at index 1. -/
def branching : State := ((st b0).setVar 0 0x46#32).withProgram [⟨none, .xwait⟩, ⟨some 9, .xwait⟩]

theorem witness_Branches_defined :
    branching.vars.get? 0 = some 0x46#32 ∧ labelIndex 9 branching.program = some 1 := by decide
theorem witness_Branches_unwritten : branching.vars.get? 1 = none := by decide
theorem witness_Branches_undefined_label :
    branching.vars.get? 0 = some 0x46#32 ∧ ∀ line ∈ branching.program, line.label ≠ some 8 := by decide
theorem witness_OtherStatementsLeaveTheBlock :
    (∀ a, Stmt.xwait ≠ .bus a) ∧ ∃ t, execStmt .xwait (st bK1) = .next t :=
  ⟨fun _ h => (by cases h), _, rfl⟩
theorem witness_PseudoInstructionsSetTheirFields : (st bK1).block.status.busy = false := by decide

/-- K4's START write as the host's next statement. -/
def startK4 : State := hosting (.bus (ctrlWrite 0x80000005#32)) (st bK4 mK4)

theorem witness_StepRunsTheDecodedInstruction :
    startK4.faults = [] ∧ startK4.nextTurn = .host ∧
    startK4.program[startK4.hpc]? = some ⟨none, .bus (ctrlWrite 0x80000005#32)⟩ ∧
    decoded (ctrlWrite 0x80000005#32) = some (.buildframe4 0#27) := by decide
theorem witness_PlacedInstructionRunsNext :
    (Instr.buildframe4 0#27).wf = true ∧ (st bK4 mK4).faults = [] := by decide
theorem witness_StepIsTheTurnsStep_faulted : ((st b0).addFault .badRegAccess).faults ≠ [] := by decide
theorem witness_StepIsTheTurnsStep_core :
    ((st (running bK1)).withAgenda [.core]).faults = [] ∧ ((st (running bK1)).withAgenda [.core]).nextTurn = .core := by
  decide
theorem witness_FaultsAreNeverRemoved :
    ∃ t, turnStep .core (st (running bK1)) = .next t := ⟨_, rfl⟩
theorem witness_BlockResetClearsTheRegisters : (st bK4 mK4).block.status.busy = false := by decide
theorem witness_LaunchStateHasTheInvariant : Memory.wf mK4 := by decide
theorem witness_InstructionFrame_ctrl_write :
    (after (exec (.wr .ctrl 0x80000005#32) ((st bK4).withOwned [⟨0x3000, 24⟩])) (st b0)).faults =
      [.dstOwnedByTransport] := by decide
theorem witness_StepIsTheTurnsStep_clock :
    ((st b0).withAgenda [.setClock 24]).faults = [] ∧ ((st b0).withAgenda [.setClock 24]).nextTurn = .setClock 24 := by
  decide
/-- The last source byte, the first destination byte, and the byte behind the destination. -/
theorem witness_ResetWhileBusyTearsTheDestination :
    (st (running bK4) mK4).mem.wf ∧ (st (running bK4) mK4).block.status.busy = true ∧
    ¬ (running bK4).dstRange.Contains 0x3018 ∧ check vectorPlatform.span (running bK4) = none ∧
    (running bK4).srcRange.Contains 0x2005 ∧ (running bK4).dstRange.Contains 0x3000 := by decide
theorem witness_StepKeepsTheInvariant : startK4.Inv ∧ ∃ t, step startK4 = .next t := ⟨by decide, _, rfl⟩
theorem witness_StepKeepsTheInvariant_running :
    ((st (running bK4) mK4).withOwned [⟨0x3018, 1⟩]).Inv := by decide
theorem witness_OperandsAreFrozenWhileBusy :
    let s := hosting (.bus (ctrlWrite 0x80000004#32)) (st (running bK1))
    s.block.status.busy = true ∧ s.nextTurn ≠ .reset ∧ ∃ t, step s = .next t :=
  ⟨by decide, by decide, _, rfl⟩
theorem witness_WhoChangesMemory_core :
    let s := (st (running bK1)).withAgenda [.core]
    s.mem.wf ∧ step s = .next (coreStep (st (running bK1))) ∧ (coreStep (st (running bK1))).mem.read 0x1008 ≠ s.mem.read 0x1008 :=
  ⟨by decide, rfl, by decide⟩
theorem witness_WhoChangesMemory_host :
    (ran (.mwr 0x2000#32 0x23#8) (st b0)).mem.read 0x2000 ≠ (st b0).mem.read 0x2000 := by decide
theorem witness_OnlyTheHostDrivesTheLine : ∃ t, step (hosting .settle (st b0)) = .next t := ⟨_, rfl⟩
theorem witness_EqualOperandsGiveEqualResults :
    let s := st (running bK4) mK4
    let t := (st (running bK4) (mK4 ++ [(0x5000, 1#8)])).withHpc 3
    s.mem.wf ∧ t.mem.wf ∧ s.platform = t.platform ∧ s.block = t.block ∧ s.faults = t.faults ∧
    (∀ x, s.block.srcRange.Contains x → s.mem.read x = t.mem.read x) ∧
    s.block.status.busy = true ∧ check s.platform.span s.block = none ∧
    s.platform.Admits s.block.srcRange ∧ s.platform.Admits s.block.dstRange := by
  refine ⟨by decide, by decide, rfl, rfl, rfl, ?_, by decide, by decide, by decide, by decide⟩
  rintro x ⟨h1, h2⟩
  have h1 : 0x2000 ≤ x := h1
  have h2 : x < 0x2006 := h2
  interval_cases x <;> decide

/-! Fair runs: an agenda, then whatever the free turns bring, in a program of `xwait`s. -/

/-- No command, no fault and no transfer, and only `xwait`s in the program: every turn goes on, and stays here. -/
def Quiet (s : State) : Prop :=
  s.faults = [] ∧ (∀ line ∈ s.program, line.stmt = .xwait) ∧ s.block.status.busy = false ∧ s.owned = []

theorem quiet_step {s : State} (h : Quiet s) : ∃ t, step s = .next t ∧ Quiet t := by
  obtain ⟨hf, hp, hb, ho⟩ := h
  rw [step_of_faultless hf]
  have h2 : Quiet s.takeTurn := ⟨by simpa using hf, by simpa using hp, by simpa using hb, by simpa using ho⟩
  generalize s.takeTurn = x at h2
  obtain ⟨hf, hp, hb, ho⟩ := h2
  cases s.nextTurn with
  | host =>
    cases hl : x.program[x.hpc]? with
    | none => exact ⟨x, by simp [turnStep, hostStep, hl], hf, hp, hb, ho⟩
    | some line =>
      have hx := hp line (List.mem_of_getElem? hl)
      exact ⟨x.advance, by simp [turnStep, hostStep, hl, hx, execStmt, execXwait, ho], hf, hp, hb, ho⟩
  | core => exact ⟨x, by simp [turnStep, coreStep, hb], hf, hp, hb, ho⟩
  | transport k => exact ⟨_, rfl, hf, hp, hb, by simp [transportStep, ho]⟩
  | reset => exact ⟨_, rfl, hf, hp, rfl, ho⟩
  | setClock f => exact ⟨_, rfl, hf, hp, hb, ho⟩
  | glitch => exact ⟨_, rfl, hf, hp, hb, ho⟩

/-- The run from a state. -/
def runFrom (s : State) : Nat → State
  | 0 => s
  | n + 1 => after (step (runFrom s n)) (runFrom s n)

/-- A run that goes on once and is quiet then is a run, and quiet ever after. -/
theorem runFrom_quiet {s t : State} (h : step s = .next t) (hq : Quiet t) :
    IsRun (runFrom s) ∧ ∀ n, Quiet (runFrom s (n + 1)) := by
  have hn : ∀ n, Quiet (runFrom s (n + 1)) := by
    intro n
    induction n with
    | zero =>
      have : runFrom s 1 = t := by
        show after (step s) s = t
        rw [h]
        rfl
      rwa [this]
    | succ n ih =>
      obtain ⟨u, hu, hqu⟩ := quiet_step ih
      have : runFrom s (n + 1 + 1) = u := by
        show after (step (runFrom s (n + 1))) (runFrom s (n + 1)) = u
        rw [hu]
        rfl
      rwa [this]
  refine ⟨?_, hn⟩
  intro n
  cases n with
  | zero =>
    show step s = .next (after (step s) s)
    rw [h]
    rfl
  | succ n =>
    obtain ⟨u, hu, -⟩ := quiet_step (hn n)
    show step (runFrom s (n + 1)) = .next (after (step (runFrom s (n + 1))) (runFrom s (n + 1)))
    rw [hu]
    rfl

/-- K1's command runs, and the core has the next turn. -/
def fairK1 : State := (st (running bK1)).withAgenda [.core]

theorem witness_FairRunsLeaveBusy :
    IsRun (runFrom fairK1) ∧ CoreFair (runFrom fairK1) ∧ (runFrom fairK1 0).block.status.busy = true := by
  obtain ⟨hr, hq⟩ := runFrom_quiet (s := fairK1) (t := coreStep (fairK1.withAgenda [])) rfl
    ⟨by decide, by decide, by decide, by decide⟩
  refine ⟨hr, ?_, by decide⟩
  intro n
  cases n with
  | zero => exact ⟨0, le_rfl, Or.inr rfl⟩
  | succ n => exact ⟨n + 1, le_rfl, Or.inl (hq n).2.2.1⟩

/-- The host waits for K4's buffer in flight, and the transport has the next turn. -/
def waitingK4 : State := (hosting .xwait ((st bK4).withOwned [⟨0x3000, 24⟩])).withAgenda [.transport 0]

theorem witness_FairRunsDrainTheTransport :
    IsRun (runFrom waitingK4) ∧ TransportFair (runFrom waitingK4) ∧
    (runFrom waitingK4 0).program[(runFrom waitingK4 0).hpc]? = some ⟨none, .xwait⟩ ∧
    (runFrom waitingK4 0).owned ≠ [] := by
  obtain ⟨hr, hq⟩ := runFrom_quiet (s := waitingK4) (t := transportStep 0 (waitingK4.withAgenda [])) rfl
    ⟨by decide, by decide, by decide, by decide⟩
  refine ⟨hr, ?_, by decide, by decide⟩
  intro n k hk
  cases n with
  | zero => exact ⟨1, by rw [show k = 0 from Nat.lt_one_iff.1 hk]; rfl⟩
  | succ n => simp [(hq n).2.2.2] at hk

end Sys2Proof.Tests
end

namespace Sys2Proof.Machine

/-! ### What a turn leaves of the platform and the bit clock

Only the clock's setting writes the bit clock, and nothing writes the platform (R188, R235; log 2, 18). -/

@[simp] theorem State.hostWrite_bitClock (s : State) (a : Nat) (b : Byte) :
    (s.hostWrite a b).bitClock = s.bitClock := by
  simp [State.hostWrite]

@[simp] theorem State.hostWrite_platform (s : State) (a : Nat) (b : Byte) :
    (s.hostWrite a b).platform = s.platform := by
  simp [State.hostWrite]

@[simp] theorem State.badAccess_bitClock (s : State) : s.badAccess.bitClock = s.bitClock := rfl

@[simp] theorem State.badAccess_platform (s : State) : s.badAccess.platform = s.platform := rfl

@[simp] theorem State.transmit_bitClock (s : State) (a k : Nat) (mode : XmitMode) :
    (s.transmit a k mode).bitClock = s.bitClock := by
  rcases State.transmit_cases s a k mode with h | ⟨e, o, -, h, -⟩ <;> simp [h]

@[simp] theorem State.transmit_platform (s : State) (a k : Nat) (mode : XmitMode) :
    (s.transmit a k mode).platform = s.platform := by
  rcases State.transmit_cases s a k mode with h | ⟨e, o, -, h, -⟩ <;> simp [h]

/-- The two states have the same platform and the same bit clock. -/
def SameSetup (s t : State) : Prop := t.platform = s.platform ∧ t.bitClock = s.bitClock

theorem execBus_sameSetup {a : BusAccess} {s t : State} (h : execBus a s = .next t) : SameSetup s t := by
  rcases execBus_cases h with rfl | ⟨-, rfl⟩ | ⟨-, sch, op, rfl⟩ | ⟨-, sch, op, rfl⟩ | ⟨-, r, d, rfl⟩ |
    ⟨r, v, rfl⟩ <;> simp [SameSetup]

theorem execStmt_sameSetup {x : Stmt} {s t : State} (h : execStmt x s = .next t) : SameSetup s t := by
  rcases execStmt_cases h with ⟨a, -, hbus⟩ | ⟨a, b, -, rfl⟩ | ⟨a, rfl⟩ | rfl | ⟨n, v, w, rfl⟩ | ⟨n, rfl⟩ |
    ⟨a, k, mode, -, -, rfl⟩ | rfl | rfl | ⟨-, rfl⟩
  case inl => exact execBus_sameSetup hbus
  all_goals simp [SameSetup]

theorem hostStep_sameSetup {s t : State} (h : hostStep s = .next t) : SameSetup s t := by
  rcases hostStep_cases h with rfl | ⟨line, -, hstmt⟩
  · exact ⟨rfl, rfl⟩
  · exact execStmt_sameSetup hstmt

theorem coreStep_sameSetup (s : State) : SameSetup s (coreStep s) := by
  rcases coreStep_cases s with ⟨-, h⟩ | ⟨e, -, -, h⟩ | ⟨-, -, -, h⟩ | ⟨-, -, -, -, h⟩ <;> simp [SameSetup, h]

/-- No turn changes the platform, and only the clock's setting changes the bit clock. -/
theorem turnStep_platform_bitClock {u : Turn} {s t : State} (h : turnStep u s = .next t) :
    t.platform = s.platform ∧ ((∀ f, u ≠ .setClock f) → t.bitClock = s.bitClock) := by
  cases u with
  | host =>
    obtain ⟨hp, hc⟩ := hostStep_sameSetup h
    exact ⟨hp, fun _ => hc⟩
  | core =>
    cases h
    obtain ⟨hp, hc⟩ := coreStep_sameSetup s
    exact ⟨hp, fun _ => hc⟩
  | transport k | reset | glitch =>
    cases h
    exact ⟨rfl, fun _ => rfl⟩
  | setClock f =>
    cases h
    exact ⟨rfl, fun hne => absurd rfl (hne f)⟩

/-- The platform and the bit clock after a step that goes on, in terms of the state before the turn was taken. -/
theorem step_platform_bitClock {s t : State} (h : step s = .next t) :
    t.platform = s.platform ∧ ((∀ f, s.nextTurn ≠ .setClock f) → t.bitClock = s.bitClock) := by
  obtain ⟨-, hturn⟩ := step_next h
  simpa using turnStep_platform_bitClock hturn

/-- Settles O48: with no fault recorded each clause is the step of the turn that it names, and the two frames are
those of `step_platform_bitClock`. -/
theorem stepIsTheTurnsStep : Obligations.StepIsTheTurnsStep := by
  unfold Obligations.StepIsTheTurnsStep
  intro s
  refine ⟨step_of_faulted, fun hf => ?_⟩
  have runs : ∀ u, s.nextTurn = u → step s = turnStep u s.takeTurn := by
    rintro u rfl
    exact step_of_faultless hf
  exact ⟨runs .host, runs .core, fun k => runs (.transport k), runs .reset, fun f => runs (.setClock f),
    runs .glitch, fun t => step_platform_bitClock⟩

/-! ### The host's statement at `hpc` -/

/-- The host's step runs the statement at `hpc` (R23). -/
theorem hostStep_of_getElem? {s : State} {line : Line} (h : s.program[s.hpc]? = some line) :
    hostStep s = execStmt line.stmt s := by
  simp [hostStep, h]

/-- A transaction that decodes to an instruction runs that instruction (R84). -/
theorem execBus_of_decode {a : BusAccess} {i : Instr} (h : decode a = .ok i) (s : State) :
    execBus a s = exec i s := by
  simp [execBus, h]

/-- Settles O46: the step is the host's, which runs the statement at `hpc`, which is the decoded instruction; taking
the turn leaves the program and `hpc`. -/
theorem stepRunsTheDecodedInstruction : Obligations.StepRunsTheDecodedInstruction := by
  unfold Obligations.StepRunsTheDecodedInstruction
  intro s line a i hf hturn hline hstmt hdec
  have hline' : s.takeTurn.program[s.takeTurn.hpc]? = some line := by simpa using hline
  calc step s = hostStep s.takeTurn := by rw [step_of_faultless hf, hturn]; rfl
    _ = execStmt (.bus a) s.takeTurn := by rw [hostStep_of_getElem? hline', hstmt]
    _ = exec i s.takeTurn := execBus_of_decode hdec s.takeTurn

end Sys2Proof.Machine

namespace Sys2Proof.Machine

/-! ### What the host's operations leave -/

@[simp] theorem State.hostWrite_block (s : State) (a : Nat) (b : Byte) : (s.hostWrite a b).block = s.block := by
  simp [State.hostWrite]

@[simp] theorem State.hostWrite_mem (s : State) (a : Nat) (b : Byte) :
    (s.hostWrite a b).mem = s.mem.write a b := rfl

@[simp] theorem State.hostWrite_owned (s : State) (a : Nat) (b : Byte) : (s.hostWrite a b).owned = s.owned := by
  simp [State.hostWrite]

@[simp] theorem State.hostWrite_faults (s : State) (a : Nat) (b : Byte) :
    (s.hostWrite a b).faults = (s.writeHazards a).faults := rfl

@[simp] theorem State.badAccess_block (s : State) : s.badAccess.block = s.block := rfl

@[simp] theorem State.badAccess_mem (s : State) : s.badAccess.mem = s.mem := rfl

@[simp] theorem State.badAccess_owned (s : State) : s.badAccess.owned = s.owned := rfl

@[simp] theorem State.badAccess_faults (s : State) :
    s.badAccess.faults = ModelFault.insert .badRegAccess s.faults := rfl

@[simp] theorem State.transmit_block (s : State) (a k : Nat) (mode : XmitMode) :
    (s.transmit a k mode).block = s.block := by
  rcases State.transmit_cases s a k mode with h | ⟨e, o, -, h, -⟩ <;> simp [h]

@[simp] theorem State.transmit_faults (s : State) (a k : Nat) (mode : XmitMode) :
    (s.transmit a k mode).faults = s.faults := by
  rcases State.transmit_cases s a k mode with h | ⟨e, o, -, h, -⟩ <;> simp [h]

/-! ### No step removes a recorded fault (R39) -/

/-- Recording a fault keeps the ones before. -/
@[simp] theorem ModelFault.subset_insert (f : ModelFault) (fs : List ModelFault) : fs ⊆ ModelFault.insert f fs :=
  fun g hg => (ModelFault.mem_insert f g fs).2 (Or.inr hg)

/-- Recording a fault under a condition keeps the ones before. -/
theorem State.subset_faultIf_faults (s : State) (p : Prop) [Decidable p] (f : ModelFault) :
    s.faults ⊆ (s.faultIf p f).faults := by
  intro g hg
  rw [State.faultIf_faults, ModelFault.mem_insertIf]
  exact Or.inl hg

theorem State.subset_writeHazards_faults (s : State) (a : Nat) : s.faults ⊆ (s.writeHazards a).faults :=
  fun f hf => (s.mem_writeHazards_faults a f).2 (Or.inl hf)

theorem State.subset_accept_faults (s : State) (sch op : BitVec 2) : s.faults ⊆ (s.accept sch op).faults := by
  intro f hf
  rw [State.accept_faults, ModelFault.mem_insertIf]
  exact Or.inl hf

theorem execBus_subset_faults {a : BusAccess} {s t : State} (h : execBus a s = .next t) : s.faults ⊆ t.faults := by
  rcases execBus_cases h with rfl | ⟨-, rfl⟩ | ⟨-, sch, op, rfl⟩ | ⟨-, sch, op, rfl⟩ | ⟨-, r, d, rfl⟩ | ⟨r, v, rfl⟩
  case inr.inr.inl => exact s.subset_accept_faults sch op
  all_goals simp

theorem execStmt_subset_faults {x : Stmt} {s t : State} (h : execStmt x s = .next t) : s.faults ⊆ t.faults := by
  rcases execStmt_cases h with ⟨a, -, hbus⟩ | ⟨a, b, -, rfl⟩ | ⟨a, rfl⟩ | rfl | ⟨n, v, w, rfl⟩ | ⟨n, rfl⟩ |
    ⟨a, k, mode, -, -, rfl⟩ | rfl | rfl | ⟨-, rfl⟩
  · exact execBus_subset_faults hbus
  · exact s.subset_writeHazards_faults a.toNat
  · exact List.Subset.trans (s.subset_writeHazards_faults a) (ModelFault.subset_insert .badRegAccess _)
  · simp
  · simp
  · simp
  · rw [State.advance_faults, State.transmit_faults]
    exact s.subset_faultIf_faults _ _
  · simp
  · simp
  · simp

theorem hostStep_subset_faults {s t : State} (h : hostStep s = .next t) : s.faults ⊆ t.faults := by
  rcases hostStep_cases h with rfl | ⟨line, -, hstmt⟩
  · exact List.Subset.refl _
  · exact execStmt_subset_faults hstmt

theorem coreStep_subset_faults (s : State) : s.faults ⊆ (coreStep s).faults := by
  rcases coreStep_cases s with ⟨-, h⟩ | ⟨e, -, -, h⟩ | ⟨-, -, -, h⟩ | ⟨-, -, -, -, h⟩ <;> simp [h]

/-- No turn removes a recorded fault. -/
theorem turnStep_subset_faults {u : Turn} {s t : State} (h : turnStep u s = .next t) : s.faults ⊆ t.faults := by
  cases u with
  | host => exact hostStep_subset_faults h
  | core =>
    cases h
    exact coreStep_subset_faults s
  | transport k | reset | setClock f | glitch =>
    cases h
    exact List.Subset.refl _

/-- Settles O49: the launch state has no fault, `addFault` inserts, and no turn removes one. -/
theorem faultsAreNeverRemoved : Obligations.FaultsAreNeverRemoved := by
  unfold Obligations.FaultsAreNeverRemoved
  exact ⟨rfl, fun s f g => ModelFault.mem_insert f g s.faults, fun u s t h f hf => turnStep_subset_faults h hf⟩

/-! ### The states of STATUS and BYTE_COUNT (R31, R32) -/

@[simp] theorem Block.store_status (b : Block) (w : Word) (r : Reg) : (b.store w r).status = b.status := by
  cases r <;> rfl

@[simp] theorem Block.store_byteCount (b : Block) (w : Word) (r : Reg) :
    (b.store w r).byteCount = b.byteCount := by
  cases r <;> rfl

@[simp] theorem Block.withSelectors_status (b : Block) (sch op : BitVec 2) :
    (b.withSelectors sch op).status = b.status := rfl

@[simp] theorem Block.withSelectors_byteCount (b : Block) (sch op : BitVec 2) :
    (b.withSelectors sch op).byteCount = b.byteCount := rfl

/-- Only STATUS and BYTE_COUNT decide whether they are in a state a host can see. -/
theorem Block.StatusOK.congr {b c : Block} (h : b.StatusOK) (hs : c.status = b.status)
    (hc : c.byteCount = b.byteCount) : c.StatusOK := by
  rw [Block.StatusOK, hs, hc]
  exact h

/-- A write while BUSY sets IGNORED, which the running state allows at either value (R162). -/
theorem Block.StatusOK.ignored {b : Block} (h : b.StatusOK) (hb : b.status.busy = true) :
    Block.StatusOK { b with status := { b.status with ignored := true } } := by
  rcases h with ⟨h, -⟩ | h | ⟨h, -⟩ | ⟨h, -⟩
  · simp [h] at hb
  · exact Or.inr (Or.inl h)
  · simp [h] at hb
  · simp [h] at hb

theorem Block.statusOK_reset : Block.reset.StatusOK := Or.inl ⟨rfl, rfl⟩

theorem Block.statusOK_accepted (b : Block) :
    Block.StatusOK { b with status := Status.accepted, byteCount := 0#32 } :=
  Or.inr (Or.inl ⟨rfl, rfl, rfl, rfl, rfl⟩)

/-- The codes of R201 are 1 to 5. -/
theorem errorCode_some_bounds (e : CmdError) :
    1 ≤ (errorCode (some e)).toNat ∧ (errorCode (some e)).toNat ≤ 5 := by
  cases e <;> decide

theorem Block.statusOK_failed (b : Block) (e : CmdError) :
    Block.StatusOK { b with status := b.status.completed (some e), byteCount := BitVec.ofNat 32 0 } := by
  obtain ⟨h1, h5⟩ := errorCode_some_bounds e
  exact Or.inr (Or.inr (Or.inr ⟨rfl, rfl, rfl, h1, h5, rfl⟩))

/-- BYTE_COUNT of a completion without error is at most the largest frame's size (R32, R77). -/
theorem Block.statusOK_succeeded (b : Block) {n : Nat} (hn : n ≤ 786420) :
    Block.StatusOK { b with status := b.status.completed none, byteCount := BitVec.ofNat 32 n } := by
  refine Or.inr (Or.inr (Or.inl ⟨rfl, rfl, rfl, rfl, ?_⟩))
  rw [BitVec.toNat_ofNat]
  exact (Nat.mod_le _ _).trans hn

/-! ### The invariant under each operation -/

/-- A change of neither memory, registers nor transfers that removes no fault keeps the invariant. -/
theorem State.Inv.of_same {s t : State} (hi : s.Inv) (hm : t.mem = s.mem) (hb : t.block = s.block)
    (ho : t.owned = s.owned) (hf : s.faults ⊆ t.faults) : t.Inv := by
  obtain ⟨hmem, hstatus, howned, hexcl⟩ := hi
  refine ⟨hm ▸ hmem, hb ▸ hstatus, ?_, ?_⟩
  · rw [State.OwnedOK, ho]
    exact howned
  · intro hnil
    rw [hb, State.Owns, ho]
    exact hexcl (List.eq_nil_of_subset_nil (hnil ▸ hf))

theorem State.Inv.mem_wf {s : State} (hi : s.Inv) : s.mem.wf := hi.1

theorem State.Inv.statusOK {s : State} (hi : s.Inv) : s.block.StatusOK := hi.2.1

theorem State.Inv.exclusive {s : State} (hi : s.Inv) : s.Exclusive := hi.2.2.2

theorem State.Inv.withMem {s : State} (hi : s.Inv) {m : Memory} (hm : m.wf) : (s.withMem m).Inv := by
  obtain ⟨-, hrest⟩ := hi
  exact ⟨hm, hrest⟩

theorem State.Inv.withBlock {s : State} (hi : s.Inv) {b : Block} (hb : b.StatusOK)
    (hx : s.faults = [] → b.status.busy = true → ¬ s.Owns b.dstRange) : (s.withBlock b).Inv := by
  obtain ⟨hmem, -, howned, -⟩ := hi
  exact ⟨hmem, hb, howned, hx⟩

/-- Registers whose STATUS shows no running command keep the invariant: exclusivity speaks of a running one. -/
theorem State.Inv.withBlock_idle {s : State} (hi : s.Inv) {b : Block} (hb : b.StatusOK)
    (hidle : b.status.busy = false) : (s.withBlock b).Inv :=
  hi.withBlock hb fun _ hbusy => absurd (hidle.symm.trans hbusy) Bool.false_ne_true

/-- A set of transfers whose new ranges are in the address space and clear of a running command's destination. -/
theorem State.Inv.withOwned {s : State} (hi : s.Inv) {o : List Range}
    (ho : ∀ q ∈ o, q ∈ s.owned ∨ (0 < q.size ∧ q.base + q.size ≤ Config.addrLimit ∧
      (s.faults = [] → s.block.status.busy = true → ¬ q.Meets s.block.dstRange))) : (s.withOwned o).Inv := by
  obtain ⟨hmem, hstatus, howned, hexcl⟩ := hi
  refine ⟨hmem, hstatus, ?_, ?_⟩
  · intro q hq
    rcases ho q hq with hold | ⟨hpos, hlim, -⟩
    · exact howned q hold
    · exact ⟨hpos, hlim⟩
  · rintro hf hbusy ⟨q, hq, hmeet⟩
    rcases ho q hq with hold | ⟨-, -, hclear⟩
    · exact hexcl hf hbusy ⟨q, hold, hmeet⟩
    · exact hclear hf hbusy hmeet

theorem State.Inv.advance {s : State} (hi : s.Inv) : s.advance.Inv :=
  hi.of_same rfl rfl rfl (List.Subset.refl _)

theorem State.Inv.addFault {s : State} (hi : s.Inv) (f : ModelFault) : (s.addFault f).Inv :=
  hi.of_same rfl rfl rfl (ModelFault.subset_insert f s.faults)

theorem State.Inv.faultIf {s : State} (hi : s.Inv) (p : Prop) [Decidable p] (f : ModelFault) :
    (s.faultIf p f).Inv :=
  hi.of_same (by simp) (by simp) (by simp) (s.subset_faultIf_faults p f)

theorem State.Inv.badAccess {s : State} (hi : s.Inv) : s.badAccess.Inv := (hi.addFault _).advance

theorem State.Inv.writeHazards {s : State} (hi : s.Inv) (a : Nat) : (s.writeHazards a).Inv :=
  ((hi.faultIf _ _).faultIf _ _).faultIf _ _

theorem State.Inv.hostWrite {s : State} (hi : s.Inv) (a : Word) (b : Byte) : (s.hostWrite a.toNat b).Inv :=
  (hi.writeHazards _).withMem (Memory.wf_write hi.mem_wf a.isLt b)

theorem State.Inv.ignoreWrite {s : State} (hi : s.Inv) (hb : s.block.status.busy = true) : s.ignoreWrite.Inv :=
  hi.withBlock (hi.statusOK.ignored hb) hi.exclusive

/-- An acceptance over a range in flight records its fault; any other is clear of them (R140, R238). -/
theorem State.Inv.accept {s : State} (hi : s.Inv) (sch op : BitVec 2) : (s.accept sch op).Inv := by
  obtain ⟨hmem, -, howned, -⟩ := hi
  refine ⟨by simpa using hmem, ?_, ?_, ?_⟩
  · rw [State.accept_block]
    exact Block.statusOK_accepted _
  · rw [State.OwnedOK, State.accept_owned]
    exact howned
  · intro hf _ howns
    have hclear : ¬ s.Owns (s.block.withSelectors sch op).dstRange := by
      intro h
      simp [State.accept_faults, h] at hf
    rw [State.Owns, State.accept_owned, State.accept_block] at howns
    exact hclear howns

theorem State.Inv.setSelectors {s : State} (hi : s.Inv) (hb : s.block.status.busy = false) (sch op : BitVec 2) :
    (s.setSelectors sch op).Inv :=
  hi.withBlock_idle (Block.StatusOK.congr hi.statusOK rfl rfl) hb

theorem State.Inv.store {s : State} (hi : s.Inv) (hb : s.block.status.busy = false) (d : Word) (r : Reg) :
    (s.withBlock (s.block.store d r)).Inv :=
  hi.withBlock_idle (Block.StatusOK.congr hi.statusOK (by simp) (by simp)) (by simpa using hb)

/-- A transfer inside the address space and without the hazard of R239. -/
theorem State.Inv.transmit {s : State} (hi : s.Inv) {a k : Nat} (hlim : a + k ≤ Config.addrLimit)
    (hz : s.faults = [] → ¬ s.TransmitHazard a k) (mode : XmitMode) : (s.transmit a k mode).Inv := by
  rcases s.transmit_cases a k mode with h | ⟨e, o, hk, h, ho⟩ <;> rw [h]
  · exact hi
  · have hline : (s.withLine (s.line ++ [e])).Inv := hi.of_same rfl rfl rfl (List.Subset.refl _)
    refine hline.withOwned fun q hq => ?_
    rcases ho with rfl | rfl
    · exact Or.inl hq
    · rcases List.mem_append.1 hq with hq | hq
      · exact Or.inl hq
      · rw [List.mem_singleton.1 hq]
        exact Or.inr ⟨Nat.pos_of_ne_zero hk, hlim, fun hf hbusy hmeet => hz hf ⟨hbusy, hmeet⟩⟩

/-- A transfer that has the hazard of R239 records its fault, after which exclusivity asks for nothing. -/
theorem State.Inv.faultIf_transmit {s : State} (hi : s.Inv) {a k : Nat} (hlim : a + k ≤ Config.addrLimit)
    (mode : XmitMode) : ((s.faultIf (s.TransmitHazard a k) .transmitWhileBusy).transmit a k mode).Inv := by
  refine (hi.faultIf _ _).transmit hlim (fun hf hz => ?_) mode
  rw [State.TransmitHazard, State.faultIf_block] at hz
  rw [State.faultIf_faults, if_pos hz] at hf
  exact ModelFault.insert_ne_nil _ _ hf

/-! ### The invariant under each agent's step -/

theorem execBus_inv {a : BusAccess} {s t : State} (hi : s.Inv) (h : execBus a s = .next t) : t.Inv := by
  rcases execBus_cases h with rfl | ⟨hb, rfl⟩ | ⟨-, sch, op, rfl⟩ | ⟨hb, sch, op, rfl⟩ | ⟨hb, r, d, rfl⟩ |
    ⟨r, v, rfl⟩
  · exact hi.badAccess
  · exact (hi.ignoreWrite hb).advance
  · exact (hi.accept sch op).advance
  · exact (hi.setSelectors hb sch op).advance
  · exact (hi.store hb d r).advance
  · exact hi.of_same rfl rfl rfl (List.Subset.refl _)

theorem execStmt_inv {x : Stmt} {s t : State} (hi : s.Inv) (h : execStmt x s = .next t) : t.Inv := by
  rcases execStmt_cases h with ⟨a, -, hbus⟩ | ⟨a, b, -, rfl⟩ | ⟨a, rfl⟩ | rfl | ⟨n, v, w, rfl⟩ | ⟨n, rfl⟩ |
    ⟨a, k, mode, -, hlim, rfl⟩ | rfl | rfl | ⟨-, rfl⟩
  · exact execBus_inv hi hbus
  · exact (hi.hostWrite a b).advance
  · exact (hi.writeHazards a).badAccess
  · exact hi.badAccess
  · exact hi.of_same rfl rfl rfl (List.Subset.refl _)
  · exact hi.of_same rfl rfl rfl (List.Subset.refl _)
  · exact (hi.faultIf_transmit hlim mode).advance
  · exact (hi.addFault _).advance
  · exact hi
  · exact hi.of_same rfl rfl rfl (List.Subset.refl _)

theorem hostStep_inv {s t : State} (hi : s.Inv) (h : hostStep s = .next t) : t.Inv := by
  rcases hostStep_cases h with rfl | ⟨line, -, hstmt⟩
  · exact hi
  · exact execStmt_inv hi hstmt

theorem coreStep_inv {s : State} (hi : s.Inv) : (coreStep s).Inv := by
  rcases coreStep_cases s with ⟨-, h⟩ | ⟨e, -, -, h⟩ | ⟨-, -, -, h⟩ | ⟨-, hc, -, -, h⟩ <;> rw [h]
  · exact hi
  · exact hi.withBlock_idle (Block.statusOK_failed _ e) rfl
  · exact hi.addFault _
  · have hbound : s.block.dstAddr.toNat + (body s.block s.mem).length ≤ Config.addrLimit := by
      rw [body_length]
      exact check_none_bound hc
    have hsize : (body s.block s.mem).length ≤ 786420 := by
      rw [body_length]
      exact s.block.dstRange_size_le
    exact (hi.withMem (Memory.wf_writeBytes hi.mem_wf hbound)).withBlock_idle (Block.statusOK_succeeded _ hsize) rfl

theorem transportStep_inv {s : State} (hi : s.Inv) (k : Nat) : (transportStep k s).Inv :=
  hi.withOwned fun _ hq => Or.inl (List.mem_of_mem_eraseIdx hq)

/-- A reset writes no more bytes than the abandoned command would have (R232). -/
theorem State.torn_length_le (s : State) : s.torn.length ≤ s.pending.length := by
  unfold State.torn
  split <;> simp

theorem blockReset_inv {s : State} (hi : s.Inv) : (blockReset s).Inv := by
  obtain ⟨-, hbound⟩ := s.pending_bound
  have hmem : (s.mem.writeBytes s.block.dstAddr.toNat s.torn).wf :=
    Memory.wf_writeBytes hi.mem_wf (by have := s.torn_length_le; omega)
  have hdraws : ((s.withMem (s.mem.writeBytes s.block.dstAddr.toNat s.torn)).withDraws
      (s.draws + s.torn.length)).Inv := (hi.withMem hmem).of_same rfl rfl rfl (List.Subset.refl _)
  exact hdraws.withBlock_idle Block.statusOK_reset rfl

/-- Every turn keeps the invariant. -/
theorem turnStep_inv {u : Turn} {s t : State} (hi : s.Inv) (h : turnStep u s = .next t) : t.Inv := by
  cases u with
  | host => exact hostStep_inv hi h
  | core =>
    cases h
    exact coreStep_inv hi
  | transport k =>
    cases h
    exact transportStep_inv hi k
  | reset =>
    cases h
    exact blockReset_inv hi
  | setClock f | glitch =>
    cases h
    exact hi.of_same rfl rfl rfl (List.Subset.refl _)

/-- Settles O54: the step is a turn's, taking the turn leaves what the invariant speaks of, and every turn keeps
the invariant. -/
theorem stepKeepsTheInvariant : Obligations.StepKeepsTheInvariant := by
  unfold Obligations.StepKeepsTheInvariant
  intro s t hi h
  obtain ⟨-, hturn⟩ := step_next h
  have htaken : s.takeTurn.Inv := hi.of_same (by simp) (by simp) (by simp) (by simp)
  exact turnStep_inv htaken hturn

/-! ### The registers' words (R25 to R33) -/

theorem Block.getLsbD_ctrlValue (b : Block) (i : Nat) :
    b.ctrlValue.getLsbD i = if i < 2 then b.op.getLsbD i else b.scheme.getLsbD (i - 2) := by
  unfold Block.ctrlValue
  simp only [BitVec.getLsbD_append]
  by_cases h : i - 2 < 2
  · simp [h]
  · simp [h, BitVec.getLsbD_of_ge b.scheme (i - 2) (by omega)]

theorem Block.getLsbD_colorValue (b : Block) (i : Nat) :
    b.colorValue.getLsbD i =
      if i < 8 then b.color.blue.getLsbD i
      else if i < 16 then b.color.green.getLsbD (i - 8) else b.color.red.getLsbD (i - 16) := by
  unfold Block.colorValue
  simp only [BitVec.getLsbD_append, show i - 8 < 8 ↔ i < 16 by omega, show i - 8 - 8 = i - 16 by omega]
  by_cases h : i - 16 < 8
  · simp [h]
  · simp [h, BitVec.getLsbD_of_ge b.color.red (i - 16) (by omega)]

theorem Status.getLsbD_word (t : Status) (i : Nat) :
    t.word.getLsbD i =
      if i = 0 then t.busy else if i = 1 then t.done else if i = 2 then t.error else if i = 3 then t.ignored
      else t.errCode.getLsbD (i - 4) := by
  unfold Status.word
  simp only [BitVec.getLsbD_append]
  obtain _ | _ | _ | _ | j := i
  · simp
  · simp
  · simp
  · simp
  · by_cases h : j < 3
    · simp [h]
    · simp [h, BitVec.getLsbD_of_ge t.errCode j (by omega)]

theorem Block.ctrlValue_layout (b : Block) :
    b.ctrlValue.extractLsb' 0 2 = b.op ∧ b.ctrlValue.extractLsb' 2 2 = b.scheme ∧
      ∀ i, 4 ≤ i → b.ctrlValue.getLsbD i = false := by
  refine ⟨?_, ?_, fun i hi => ?_⟩
  · ext i hi
    simp [Block.getLsbD_ctrlValue, hi]
  · ext i hi
    simp [Block.getLsbD_ctrlValue, hi, show ¬ 2 + i < 2 by omega]
  · rw [Block.getLsbD_ctrlValue, if_neg (by omega)]
    exact BitVec.getLsbD_of_ge b.scheme (i - 2) (by omega)

theorem Block.ledCount_layout (b : Block) :
    (b.ledCount.setWidth 32).extractLsb' 0 16 = b.ledCount ∧
      ∀ i, 16 ≤ i → (b.ledCount.setWidth 32).getLsbD i = false := by
  refine ⟨?_, fun i hi => ?_⟩
  · ext i hi
    simp [hi, show i < 32 by omega]
  · simp [BitVec.getLsbD_of_ge b.ledCount i hi]

theorem Block.colorValue_layout (b : Block) :
    b.colorValue.extractLsb' 0 8 = b.color.blue ∧ b.colorValue.extractLsb' 8 8 = b.color.green ∧
      b.colorValue.extractLsb' 16 8 = b.color.red ∧ ∀ i, 24 ≤ i → b.colorValue.getLsbD i = false := by
  refine ⟨?_, ?_, ?_, fun i hi => ?_⟩
  · ext i hi
    simp [Block.getLsbD_colorValue, hi]
  · ext i hi
    simp [Block.getLsbD_colorValue, hi, show 8 + i < 16 by omega]
  · ext i hi
    simp [Block.getLsbD_colorValue, hi, show ¬ 16 + i < 8 by omega]
  · rw [Block.getLsbD_colorValue, if_neg (by omega), if_neg (by omega)]
    exact BitVec.getLsbD_of_ge b.color.red (i - 16) (by omega)

theorem Status.word_layout (t : Status) :
    t.word.getLsbD 0 = t.busy ∧ t.word.getLsbD 1 = t.done ∧ t.word.getLsbD 2 = t.error ∧
      t.word.getLsbD 3 = t.ignored ∧ t.word.extractLsb' 4 3 = t.errCode ∧
      ∀ i, 7 ≤ i → t.word.getLsbD i = false := by
  refine ⟨t.getLsbD_word 0, t.getLsbD_word 1, t.getLsbD_word 2, t.getLsbD_word 3, ?_, fun i hi => ?_⟩
  · ext i hi
    simp [Status.getLsbD_word, hi, show ¬ 4 + i = 1 by omega, show ¬ 4 + i = 2 by omega,
      show ¬ 4 + i = 3 by omega]
  · rw [Status.getLsbD_word, if_neg (by omega), if_neg (by omega), if_neg (by omega), if_neg (by omega)]
    exact BitVec.getLsbD_of_ge t.errCode (i - 4) (by omega)

/-- Settles O7: CTRL, LED_COUNT, COLOR and STATUS by their layouts; the other registers are their word. -/
theorem registerWordLayout : Obligations.RegisterWordLayout := by
  unfold Obligations.RegisterWordLayout
  exact fun b => ⟨b.ctrlValue_layout, b.ledCount_layout, b.colorValue_layout, b.status.word_layout, rfl, rfl, rfl, rfl⟩

/-- Settles O4: each transaction's offset and CTRL word evaluate to their row. -/
theorem writtenOutWordsDecode : Obligations.WrittenOutWordsDecode := by
  unfold Obligations.WrittenOutWordsDecode
  exact ⟨rfl, rfl, rfl, rfl, rfl, rfl, rfl, rfl⟩

/-! ### What an instruction can do -/

/-- The instruction starts a command while idle: a START row, or a WR term that names CTRL with START = 1 (R140). -/
def Starts (i : Instr) : Prop :=
  Spec.startSelectors i ≠ none ∨ ∃ d : Word, i = .wr .ctrl d ∧ d.getLsbD 31 = true

/-- A START row runs as the start of its selectors (R73, R140). -/
theorem exec_of_startSelectors {i : Instr} {sch op : BitVec 2} (h : Spec.startSelectors i = some (sch, op))
    (s : State) : exec i s = startCommand sch op s := by
  cases i <;> cases h <;> rfl

/-- An instruction reads a register into its variable, or changes the registers alone, or is accepted as the start of a
command. -/
theorem exec_cases (i : Instr) (s : State) :
    (∃ r v, i = .rd r v ∧ exec i s = .next (s.setVar v (s.block.value r)).advance) ∨
    (∃ b, exec i s = .next (s.withBlock b).advance) ∨
    (s.block.status.busy = false ∧ Starts i ∧ ∃ sch op, exec i s = .next (s.accept sch op).advance) := by
  by_cases hrd : ∃ r v, i = .rd r v
  · obtain ⟨r, v, rfl⟩ := hrd
    exact Or.inl ⟨r, v, rfl, rfl⟩
  refine Or.inr ?_
  cases hb : s.block.status.busy
  case true => exact Or.inl ⟨_, exec_of_busy (fun r v h => hrd ⟨r, v, h⟩) hb⟩
  cases hsel : Spec.startSelectors i
  case some p => exact Or.inr ⟨rfl, Or.inl (by simp [hsel]), p.1, p.2, by
      simp [exec_of_startSelectors hsel, startCommand, hb]⟩
  cases i
  case rd r v => exact absurd ⟨r, v, rfl⟩ hrd
  case ctrlset ign sch op => exact Or.inl ⟨_, by simp only [exec, execCtrlset, hb]; rfl⟩
  case wr r d =>
    by_cases hr : r = .ctrl
    · subst hr
      cases hd : ctrlStart d
      · exact Or.inl ⟨_, by simp only [exec, execWr, State.writeReg, State.writeCtrl, hb, hd]; rfl⟩
      · exact Or.inr ⟨rfl, Or.inr ⟨d, rfl, hd⟩, ctrlScheme d, ctrlOp d, by
          simp [exec, execWr, State.writeReg, State.writeCtrl, hb, hd]⟩
    · exact Or.inl ⟨s.block.store d r, by simp [exec, execWr, State.writeReg, hb, hr]⟩
  all_goals cases hsel

theorem State.untouched_setVar_advance (s : State) (v : Var) (w : Word) :
    Spec.Untouched s (s.setVar v w).advance := by
  simp [Spec.Untouched]

theorem State.untouched_withBlock_advance (s : State) (b : Block) : Spec.Untouched s (s.withBlock b).advance := by
  simp [Spec.Untouched]

theorem State.untouched_accept_advance (s : State) (sch op : BitVec 2) :
    Spec.Untouched s (s.accept sch op).advance := by
  simp [Spec.Untouched]

/-- The faults recorded after an acceptance are the ones before, and DstOwnedByTransport under R238's condition. -/
theorem State.mem_accept_faults (s : State) (sch op : BitVec 2) (f : ModelFault) :
    f ∈ (s.accept sch op).faults ↔ f ∈ s.faults ∨
      (f = .dstOwnedByTransport ∧ s.Owns (s.block.withSelectors sch op).dstRange) := by
  rw [State.accept_faults, ModelFault.mem_insertIf]

/-- Settles O14, by the three things that an instruction can do. -/
theorem instructionFrame : Obligations.InstructionFrame := by
  unfold Obligations.InstructionFrame
  intro i s
  rcases exec_cases i s with ⟨r, v, rfl, h⟩ | ⟨b, h⟩ | ⟨hidle, hstarts, sch, op, h⟩
  · refine ⟨_, h, rfl, s.untouched_setVar_advance v _, fun u hu => ?_, fun f hf => hf, fun f hf => Or.inl hf⟩
    have huv : u = v := by
      by_contra hne
      simp [Vars.get?_set, hne] at hu
    exact ⟨r, by rw [huv]⟩
  · exact ⟨_, h, rfl, s.untouched_withBlock_advance b, fun u hu => absurd rfl hu, fun f hf => hf,
      fun f hf => Or.inl hf⟩
  · refine ⟨_, h, by simp, s.untouched_accept_advance sch op, fun u hu => absurd (by simp) hu,
      fun f hf => s.subset_accept_faults sch op hf, fun f hf => ?_⟩
    rcases (s.mem_accept_faults sch op f).1 hf with hold | ⟨hnew, -⟩
    · exact Or.inl hold
    · exact Or.inr ⟨hnew, hidle, hstarts⟩

/-! ### The registers while a command runs (R35, R162) -/

/-- While BUSY a bus statement leaves the registers, or sets IGNORED. -/
theorem execBus_block_of_busy {a : BusAccess} {s t : State} (hb : s.block.status.busy = true)
    (h : execBus a s = .next t) : t.block = s.block ∨ t.block = s.ignoreWrite.block := by
  rcases execBus_cases h with rfl | ⟨-, rfl⟩ | ⟨hidle, -⟩ | ⟨hidle, -⟩ | ⟨hidle, -⟩ | ⟨r, v, rfl⟩
  case inl => exact Or.inl rfl
  case inr.inl => exact Or.inr rfl
  case inr.inr.inr.inr.inr => exact Or.inl rfl
  all_goals exact absurd (hidle.symm.trans hb) Bool.false_ne_true

/-- While BUSY a host statement leaves the registers, or sets IGNORED. -/
theorem execStmt_block_of_busy {x : Stmt} {s t : State} (hb : s.block.status.busy = true)
    (h : execStmt x s = .next t) : t.block = s.block ∨ t.block = s.ignoreWrite.block := by
  rcases execStmt_cases h with ⟨a, -, hbus⟩ | ⟨a, b, -, rfl⟩ | ⟨a, rfl⟩ | rfl | ⟨n, v, w, rfl⟩ | ⟨n, rfl⟩ |
    ⟨a, k, mode, -, -, rfl⟩ | rfl | rfl | ⟨-, rfl⟩
  case inl => exact execBus_block_of_busy hb hbus
  all_goals exact Or.inl (by simp)

theorem hostStep_block_of_busy {s t : State} (hb : s.block.status.busy = true) (h : hostStep s = .next t) :
    t.block = s.block ∨ t.block = s.ignoreWrite.block := by
  rcases hostStep_cases h with rfl | ⟨line, -, hstmt⟩
  · exact Or.inl rfl
  · exact execStmt_block_of_busy hb hstmt

theorem sameOperands_refl (b : Block) : Spec.SameOperands b b := ⟨rfl, rfl, rfl, rfl, rfl, rfl, rfl⟩

/-- The core's step writes STATUS and BYTE_COUNT alone (R142). -/
theorem coreStep_sameOperands (s : State) : Spec.SameOperands s.block (coreStep s).block := by
  rcases coreStep_cases s with ⟨-, h⟩ | ⟨e, -, -, h⟩ | ⟨-, -, -, h⟩ | ⟨-, -, -, -, h⟩ <;> rw [h] <;>
    exact sameOperands_refl s.block

/-- While BUSY the host's step keeps the operands and BUSY. -/
theorem hostStep_frozen {s t : State} (hb : s.block.status.busy = true) (h : hostStep s = .next t) :
    Spec.SameOperands s.block t.block ∧ t.block.status.busy = true := by
  rcases hostStep_block_of_busy hb h with e | e <;> rw [e] <;> exact ⟨sameOperands_refl s.block, hb⟩

/-- While BUSY no turn but a reset changes the operands, and none but the core's clears BUSY. -/
theorem turnStep_frozen {u : Turn} {s t : State} (hb : s.block.status.busy = true) (hu : u ≠ .reset)
    (h : turnStep u s = .next t) :
    Spec.SameOperands s.block t.block ∧ (t.block.status.busy = false → u = .core) := by
  cases u with
  | host =>
    obtain ⟨hops, hbusy⟩ := hostStep_frozen hb h
    exact ⟨hops, fun hidle => absurd (hidle.symm.trans hbusy) Bool.false_ne_true⟩
  | core =>
    cases h
    exact ⟨coreStep_sameOperands s, fun _ => rfl⟩
  | reset => exact absurd rfl hu
  | transport k | setClock f | glitch =>
    cases h
    exact ⟨sameOperands_refl s.block, fun hidle => absurd (hidle.symm.trans hb) Bool.false_ne_true⟩

/-- Settles O55: the step is a turn's, and taking the turn leaves the registers. -/
theorem operandsAreFrozenWhileBusy : Obligations.OperandsAreFrozenWhileBusy := by
  unfold Obligations.OperandsAreFrozenWhileBusy
  intro s t hb hturn h
  obtain ⟨-, hstep⟩ := step_next h
  simpa using turnStep_frozen (by simpa using hb) hturn hstep

/-! ### What the core's step depends on (R35, R106, R233) -/

theorem coreStep_of_idle {s : State} (hb : s.block.status.busy = false) : coreStep s = s := by
  simp [coreStep, hb]

/-- The core's step of a command with an error (R208). -/
theorem coreStep_of_error {s : State} {e : CmdError} (hb : s.block.status.busy = true)
    (hc : check s.platform.span s.block = some e) : coreStep s = s.complete (some e) 0 := by
  simp [coreStep, hb, hc]

/-- The core's step of a command over bytes that are not admitted (R52). -/
theorem coreStep_of_notAdmitted {s : State} (hb : s.block.status.busy = true)
    (hc : check s.platform.span s.block = none)
    (ha : ¬ (s.platform.Admits s.block.srcRange ∧ s.platform.Admits s.block.dstRange)) :
    coreStep s = s.addFault .memNotAdmitted := by
  simp only [coreStep, hb, hc, if_true, if_neg ha]

/-- The registers and the faults after the core's step depend on the platform, the registers and the faults alone. -/
theorem coreStep_block_faults_congr {s t : State} (hp : s.platform = t.platform) (hb : s.block = t.block)
    (hf : s.faults = t.faults) :
    (coreStep s).block = (coreStep t).block ∧ (coreStep s).faults = (coreStep t).faults := by
  rcases coreStep_cases s with ⟨hidle, h⟩ | ⟨e, hbusy, hc, h⟩ | ⟨hbusy, hc, ha, h⟩ | ⟨hbusy, hc, hsrc, hdst, h⟩
  · rw [h, coreStep_of_idle (hb ▸ hidle)]
    exact ⟨hb, hf⟩
  · rw [h, coreStep_of_error (hb ▸ hbusy) (hp ▸ hb ▸ hc)]
    simp [hb, hf]
  · rw [h, coreStep_of_notAdmitted (hb ▸ hbusy) (hp ▸ hb ▸ hc) (hp ▸ hb ▸ ha)]
    simp [hb, hf]
  · rw [h, coreStep_of_ok (hb ▸ hbusy) (hp ▸ hb ▸ hc) (hp ▸ hb ▸ hsrc) (hp ▸ hb ▸ hdst)]
    simp [hb, hf, body_length]

/-- A byte of the destination range after a completion without error is the body's byte. -/
theorem coreStep_read_dst {s : State} (hm : s.mem.wf) (hb : s.block.status.busy = true)
    (hc : check s.platform.span s.block = none) (hsrc : s.platform.Admits s.block.srcRange)
    (hdst : s.platform.Admits s.block.dstRange) {a : Nat} (ha : s.block.dstRange.Contains a) :
    some ((coreStep s).mem.read a) = (body s.block s.mem)[a - s.block.dstAddr.toNat]? := by
  obtain ⟨hlow, hhigh⟩ := ha
  rw [Block.dstRange_base] at hlow hhigh
  have hlt : a - s.block.dstAddr.toNat < (body s.block s.mem).length := by
    rw [body_length]
    omega
  have hbound : s.block.dstAddr.toNat + (body s.block s.mem).length ≤ Config.addrLimit := by
    rw [body_length]
    exact check_none_bound hc
  rw [coreStep_of_ok hb hc hsrc hdst, State.complete_mem, State.withMem_mem, Memory.read_writeBytes hm hbound,
    if_pos hlow, List.getElem?_eq_getElem hlt, Option.getD_some]

/-- Settles O58: registers and faults by `coreStep_block_faults_congr`; the destination bytes are the body's, which
depends on the registers and the source bytes alone (`body_congr`). -/
theorem equalOperandsGiveEqualResults : Obligations.EqualOperandsGiveEqualResults := by
  unfold Obligations.EqualOperandsGiveEqualResults
  intro s t hs ht hp hb hf hmem
  obtain ⟨hblock, hfaults⟩ := coreStep_block_faults_congr hp hb hf
  refine ⟨hblock, hfaults, fun hbusy hc hsrc hdst a ha => Option.some.inj ?_⟩
  calc some ((coreStep s).mem.read a)
      = (body s.block s.mem)[a - s.block.dstAddr.toNat]? := coreStep_read_dst hs hbusy hc hsrc hdst ha
    _ = (body t.block t.mem)[a - t.block.dstAddr.toNat]? := by rw [body_congr s.block s.mem t.mem hmem, hb]
    _ = some ((coreStep t).mem.read a) :=
      (coreStep_read_dst ht (hb ▸ hbusy) (hp ▸ hb ▸ hc) (hp ▸ hb ▸ hsrc) (hp ▸ hb ▸ hdst) (hb ▸ ha)).symm

end Sys2Proof.Machine

namespace Sys2Proof

/-! ### Which transactions decode (R57, R87) -/

/-- The offsets of the register map are the aligned ones of the span (R24). -/
theorem mem_registerOffsets_iff {n : Nat} (h : n < 0x20) :
    n ∈ [0x00, 0x04, 0x08, 0x0C, 0x10, 0x14, 0x18, 0x1C] ↔ n % 4 = 0 := by
  simp only [List.mem_cons, List.not_mem_nil, or_false]
  omega

theorem decode_of_outside {a : BusAccess} (h : Config.regSpan ≤ a.offset.toNat) : decode a = .error .outsideSpan :=
  if_pos h

theorem decode_of_misaligned {a : BusAccess} (h : a.offset.toNat < Config.regSpan)
    (hbad : a.width ≠ 4 ∨ a.offset.toNat % 4 ≠ 0) : decode a = .error .badRegAccess := by
  rw [decode, if_neg (Nat.not_le.2 h), if_pos hbad]

theorem exists_decode_of_aligned {a : BusAccess} (h : a.offset.toNat < Config.regSpan) (hw : a.width = 4)
    (h4 : a.offset.toNat % 4 = 0) : ∃ i, decode a = .ok i := by
  rw [decode, if_neg (Nat.not_le.2 h), if_neg (by simp [hw, h4])]
  cases a.kind with
  | read t => exact ⟨_, rfl⟩
  | write d =>
    by_cases hr : offsetReg a.offset = .ctrl
    · exact ⟨_, if_pos hr⟩
    · exact ⟨_, if_neg hr⟩

/-- Every byte of an admitted range has MemOK (R52). -/
theorem Platform.Admits.memOK {p : Platform} {r : Range} (h : p.Admits r) {a : Nat} (ha : r.Contains a) :
    p.MemOK a := by
  obtain ⟨hlow, hhigh⟩ := ha
  have hok := h (a - r.base) (by omega)
  rwa [Nat.add_sub_cancel' hlow] at hok

end Sys2Proof

namespace Sys2Proof.Machine

/-! ### Bad register accesses (R57, R165) -/

@[simp] theorem State.badAccess_vars (s : State) : s.badAccess.vars = s.vars := rfl

@[simp] theorem State.badAccess_hpc (s : State) : s.badAccess.hpc = s.hpc + 1 := rfl

/-- Recording a fault and going on leaves everything but `faults` and `hpc`. -/
theorem State.untouched_addFault_advance (s : State) (f : ModelFault) :
    Spec.Untouched s (s.addFault f).advance := by
  simp [Spec.Untouched]

theorem State.untouched_badAccess (s : State) : Spec.Untouched s s.badAccess :=
  s.untouched_addFault_advance .badRegAccess

theorem State.untouched_writeHazards_badAccess (s : State) (a : Nat) :
    Spec.Untouched s (s.writeHazards a).badAccess := by
  simpa [Spec.Untouched] using (s.writeHazards a).untouched_badAccess

theorem execBus_of_misaligned {a : BusAccess} (h : a.offset.toNat < Config.regSpan)
    (hbad : a.width ≠ 4 ∨ a.offset.toNat % 4 ≠ 0) (s : State) : execBus a s = .next s.badAccess := by
  simp [execBus, decode_of_misaligned h hbad]

theorem execBus_of_outside {a : BusAccess} (h : Config.regSpan ≤ a.offset.toNat) (s : State) :
    execBus a s = .refused (.notARegister a.offset) := by
  simp [execBus, decode_of_outside h]

/-- Settles O5: the offsets listed are the aligned ones of the span, so an access is either aligned and decodes, or is
turned away with `badAccess`. -/
theorem onlyAlignedWordAccessesAreDefined : Obligations.OnlyAlignedWordAccessesAreDefined := by
  unfold Obligations.OnlyAlignedWordAccessesAreDefined
  intro a h
  rw [mem_registerOffsets_iff h]
  by_cases hal : a.width = 4 ∧ a.offset.toNat % 4 = 0
  · obtain ⟨hw, h4⟩ := hal
    exact ⟨iff_of_true (exists_decode_of_aligned h hw h4) ⟨hw, h4⟩, fun hn => absurd ⟨hw, h4⟩ hn⟩
  · have hbad : a.width ≠ 4 ∨ a.offset.toNat % 4 ≠ 0 := not_and_or.1 hal
    refine ⟨iff_of_false ?_ hal, fun _ s => ⟨s.badAccess, execBus_of_misaligned h hbad s,
      fun f => ModelFault.mem_insert .badRegAccess f s.faults, rfl, rfl, s.untouched_badAccess⟩⟩
    simp [decode_of_misaligned h hbad]

/-- The source range is a BUILDFRAME's, of three bytes for each LED (R54, R77). -/
theorem Block.srcRange_contains_iff (b : Block) (a : Nat) :
    b.srcRange.Contains a ↔ (∃ sch, b.command = some (.buildFrame, sch)) ∧
      b.srcAddr.toNat ≤ a ∧ a < b.srcAddr.toNat + 3 * b.ledCount.toNat := by
  unfold Block.srcRange
  cases b.command with
  | none => simp
  | some p =>
    obtain ⟨o, sch⟩ := p
    cases o with
    | buildFrame => simp [srcbytes, Block.count]
    | encode | buildSingle => simp [srcbytes]

/-- The hazard checks of a host write record the hazards of R240 to R242. -/
theorem State.mem_writeHazards_iff (s : State) (a : Nat) (f : ModelFault) :
    f ∈ (s.writeHazards a).faults ↔ f ∈ s.faults ∨ Spec.WriteHazard s a f := by
  rw [State.mem_writeHazards_faults, Block.srcRange_contains_iff]
  rfl

theorem execMwr_of_span {a : Word} {s : State} (h : s.platform.span.Contains a.toNat) (b : Byte) :
    execMwr a b s = .next (s.writeHazards a.toNat).badAccess :=
  if_pos h

theorem execMrd_of_span {a : Word} {s : State} (h : s.platform.span.Contains a.toNat) (v : Var) :
    execMrd a v s = .next s.badAccess :=
  if_pos h

/-- Settles O6: both byte accesses are `badAccess`, the write's after its hazard checks; a transaction outside the span
decodes to no instruction. -/
theorem byteAccessesInTheSpanAreBad : Obligations.ByteAccessesInTheSpanAreBad := by
  unfold Obligations.ByteAccessesInTheSpanAreBad
  intro s a b v hlow hhigh
  have hspan : s.platform.span.Contains a.toNat := ⟨hlow, hhigh⟩
  refine ⟨⟨_, execMwr_of_span hspan b, fun f => ?_, by simp, by simp, by simp,
      s.untouched_writeHazards_badAccess a.toNat⟩,
    ⟨_, execMrd_of_span hspan v, fun f => ?_, rfl, rfl, rfl, s.untouched_badAccess⟩,
    fun acc hacc => execBus_of_outside hacc s⟩
  · rw [State.badAccess_faults, ModelFault.mem_insert, State.mem_writeHazards_iff, or_left_comm]
  · rw [State.badAccess_faults, ModelFault.mem_insert, or_comm]

/-! ### What the core's step leaves (R51, R141) -/

/-- The core's step writes the registers, memory and the recorded faults alone. -/
theorem coreStep_writes (s : State) :
    coreStep s =
      ((s.withBlock (coreStep s).block).withMem (coreStep s).mem).withFaults (coreStep s).faults := by
  rcases coreStep_cases s with ⟨-, h⟩ | ⟨e, -, -, h⟩ | ⟨-, -, -, h⟩ | ⟨-, -, -, -, h⟩ <;> rw [h] <;> rfl

@[simp] theorem coreStep_line (s : State) : (coreStep s).line = s.line := by
  rw [coreStep_writes]; rfl

@[simp] theorem coreStep_program (s : State) : (coreStep s).program = s.program := by
  rw [coreStep_writes]; rfl

@[simp] theorem coreStep_hpc (s : State) : (coreStep s).hpc = s.hpc := by
  rw [coreStep_writes]; rfl

@[simp] theorem coreStep_vars (s : State) : (coreStep s).vars = s.vars := by
  rw [coreStep_writes]; rfl

@[simp] theorem coreStep_agenda (s : State) : (coreStep s).agenda = s.agenda := by
  rw [coreStep_writes]; rfl

@[simp] theorem coreStep_draws (s : State) : (coreStep s).draws = s.draws := by
  rw [coreStep_writes]; rfl

/-- Writing at DST_ADDR no more bytes than the destination range holds leaves every byte outside that range. -/
theorem Memory.read_writeBytes_outside_dst {m : Memory} (hm : m.wf) (b : Block) {bs : List Byte}
    (hsize : bs.length ≤ b.dstRange.size) (hlim : b.dstAddr.toNat + bs.length ≤ Config.addrLimit) {a : Nat}
    (ha : ¬ b.dstRange.Contains a) : (m.writeBytes b.dstAddr.toNat bs).read a = m.read a := by
  refine Memory.read_writeBytes_outside hm hlim fun ⟨hlow, hhigh⟩ => ha ?_
  rw [Range.Contains, Block.dstRange_base]
  exact ⟨hlow, hhigh.trans_le (Nat.add_le_add_left hsize _)⟩

theorem coreStep_read_outside {s : State} (hm : s.mem.wf) {a : Nat} (ha : ¬ s.block.dstRange.Contains a) :
    (coreStep s).mem.read a = s.mem.read a := by
  rcases coreStep_cases s with ⟨-, h⟩ | ⟨e, -, -, h⟩ | ⟨-, -, -, h⟩ | ⟨-, hc, -, -, h⟩ <;> rw [h]
  · rfl
  · rfl
  · have hlen := body_length s.block s.mem
    exact Memory.read_writeBytes_outside_dst hm s.block hlen.le (hlen ▸ check_none_bound hc) ha

/-- The core's step records no fault but MemNotAdmitted (R52). -/
theorem coreStep_faults_cases {s : State} {f : ModelFault} (hf : f ∈ (coreStep s).faults) :
    f ∈ s.faults ∨ f = .memNotAdmitted := by
  rcases coreStep_cases s with ⟨-, h⟩ | ⟨e, -, -, h⟩ | ⟨-, -, -, h⟩ | ⟨-, -, -, -, h⟩ <;> rw [h] at hf
  · exact Or.inl hf
  · exact Or.inl hf
  · exact ((ModelFault.mem_insert .memNotAdmitted f s.faults).1 hf).symm
  · exact Or.inl hf

/-- Settles O23: the core's step writes registers, memory and faults alone, and of these not the operands, no byte
outside the destination, and no fault but MemNotAdmitted. -/
theorem coreStepFrame : Obligations.CoreStepFrame := by
  unfold Obligations.CoreStepFrame
  intro s hm
  obtain ⟨hplatform, hclock⟩ := coreStep_sameSetup s
  exact ⟨coreStep_of_idle, fun a => coreStep_read_outside hm, coreStep_sameOperands s, coreStep_owned s,
    coreStep_line s, hclock, coreStep_program s, coreStep_hpc s, coreStep_vars s, hplatform, coreStep_agenda s,
    coreStep_draws s, fun f => coreStep_faults_cases⟩

/-- Settles O24: a byte with MemOK false keeps one of the ranges from being admitted, so the core's step is the record
of MemNotAdmitted alone. -/
theorem notAdmittedStopsTheRun : Obligations.NotAdmittedStopsTheRun := by
  unfold Obligations.NotAdmittedStopsTheRun
  rintro s hb hc ⟨a, ha, hbad⟩
  have hnot : ¬ (s.platform.Admits s.block.srcRange ∧ s.platform.Admits s.block.dstRange) := by
    rintro ⟨hsrc, hdst⟩
    exact hbad (ha.elim hsrc.memOK hdst.memOK)
  rw [coreStep_of_notAdmitted hb hc hnot]
  have hrec : .memNotAdmitted ∈ (s.addFault .memNotAdmitted).faults := by simp
  obtain ⟨f, -, hstop⟩ := step_of_faulted (List.ne_nil_of_mem hrec)
  exact ⟨hrec, rfl, f, hstop⟩

/-! ### Waits and completions (R184) -/

/-- Settles O40: the waits are their definitions, and a completion takes one entry out of `owned`. -/
theorem waitsEndWhenNothingIsInFlight : Obligations.WaitsEndWhenNothingIsInFlight := by
  unfold Obligations.WaitsEndWhenNothingIsInFlight
  intro s
  exact ⟨fun h => if_pos h, fun h => if_neg h, rfl, s.platform.latch_lt_tSettle, fun k h =>
    ⟨List.length_eraseIdx_add_one h, List.getElem_cons_eraseIdx_perm h, rfl⟩⟩

/-! ### Who changes memory (R51, R129, R167, R232) -/

theorem execBus_mem {a : BusAccess} {s t : State} (h : execBus a s = .next t) : t.mem = s.mem := by
  rcases execBus_cases h with rfl | ⟨-, rfl⟩ | ⟨-, sch, op, rfl⟩ | ⟨-, sch, op, rfl⟩ | ⟨-, r, d, rfl⟩ |
    ⟨r, v, rfl⟩ <;> simp

@[simp] theorem State.transmit_mem (s : State) (a k : Nat) (mode : XmitMode) :
    (s.transmit a k mode).mem = s.mem := by
  rcases State.transmit_cases s a k mode with h | ⟨e, o, -, h, -⟩ <;> simp [h]

/-- A host statement leaves memory, or is an `mwr` that writes its own byte. -/
theorem execStmt_mem_cases {x : Stmt} {s t : State} (h : execStmt x s = .next t) :
    t.mem = s.mem ∨ ∃ w b, x = .mwr w b ∧ t.mem = s.mem.write w.toNat b := by
  rcases execStmt_cases h with ⟨a, -, hbus⟩ | ⟨a, b, hx, rfl⟩ | ⟨a, rfl⟩ | rfl | ⟨n, v, w, rfl⟩ | ⟨n, rfl⟩ |
    ⟨a, k, mode, -, -, rfl⟩ | rfl | rfl | ⟨-, rfl⟩
  case inl => exact Or.inl (execBus_mem hbus)
  case inr.inl => exact Or.inr ⟨a, b, hx, rfl⟩
  all_goals exact Or.inl (by simp)

/-- A byte that the host's step changes is that of the `mwr` at `hpc`. -/
theorem hostStep_changes_byte {s t : State} {a : Nat} (hm : s.mem.wf) (h : hostStep s = .next t)
    (hne : t.mem.read a ≠ s.mem.read a) :
    ∃ line w b, s.program[s.hpc]? = some line ∧ line.stmt = .mwr w b ∧ w.toNat = a := by
  rcases hostStep_cases h with rfl | ⟨line, hline, hstmt⟩
  · exact absurd rfl hne
  · rcases execStmt_mem_cases hstmt with hmem | ⟨w, b, hmwr, hmem⟩ <;> rw [hmem] at hne
    · exact absurd rfl hne
    · refine ⟨line, w, b, hline, hmwr, ?_⟩
      by_contra hwa
      exact hne (by rw [Memory.read_write hm, if_neg (Ne.symm hwa)])

theorem blockReset_mem_of_idle {s : State} (hb : s.block.status.busy = false) :
    (blockReset s).mem = s.mem := by
  simp [blockReset, State.torn, hb, Memory.writeBytes]

theorem blockReset_read_outside {s : State} (hm : s.mem.wf) {a : Nat} (ha : ¬ s.block.dstRange.Contains a) :
    (blockReset s).mem.read a = s.mem.read a := by
  obtain ⟨hsize, hlim⟩ := s.pending_bound
  have hlen := s.torn_length_le
  exact Memory.read_writeBytes_outside_dst hm s.block (by omega) (by omega) ha

/-- Where memory stays while idle, and outside the destination range always, a changed byte is a running command's
destination byte. -/
theorem busy_and_dst_of_changed {s : State} {m : Memory} {a : Nat}
    (hidle : s.block.status.busy = false → m = s.mem)
    (hout : ¬ s.block.dstRange.Contains a → m.read a = s.mem.read a) (hne : m.read a ≠ s.mem.read a) :
    s.block.status.busy = true ∧ s.block.dstRange.Contains a := by
  constructor
  · by_contra hb
    exact hne (by rw [hidle (Bool.eq_false_of_not_eq_true hb)])
  · exact not_imp_comm.1 hout hne

/-- A turn that changes a byte is the core's, the host's or a reset. -/
theorem turnStep_changes_byte {u : Turn} {s t : State} {a : Nat} (hm : s.mem.wf)
    (h : turnStep u s = .next t) (hne : t.mem.read a ≠ s.mem.read a) :
    (u = .core ∧ s.block.status.busy = true ∧ s.block.dstRange.Contains a) ∨
    (u = .host ∧ ∃ line w b, s.program[s.hpc]? = some line ∧ line.stmt = .mwr w b ∧ w.toNat = a) ∨
    (u = .reset ∧ s.block.status.busy = true ∧ s.block.dstRange.Contains a) := by
  cases u with
  | host => exact Or.inr (Or.inl ⟨rfl, hostStep_changes_byte hm h hne⟩)
  | core =>
    cases h
    have hidle : s.block.status.busy = false → (coreStep s).mem = s.mem := fun hb => by rw [coreStep_of_idle hb]
    exact Or.inl ⟨rfl, busy_and_dst_of_changed hidle (coreStep_read_outside hm) hne⟩
  | reset =>
    cases h
    exact Or.inr (Or.inr ⟨rfl, busy_and_dst_of_changed blockReset_mem_of_idle (blockReset_read_outside hm) hne⟩)
  | transport k | setClock f | glitch =>
    cases h
    exact absurd rfl hne

/-- Settles O56: the step is a turn's, and taking the turn leaves memory, the registers and the host's statement. -/
theorem whoChangesMemory : Obligations.WhoChangesMemory := by
  unfold Obligations.WhoChangesMemory
  intro s t a hm h hne
  obtain ⟨-, hturn⟩ := step_next h
  simpa using turnStep_changes_byte (a := a) (by simpa using hm) hturn (by simpa using hne)

/-! ### A transfer past the last address (R50, R239) -/

/-- Sharing a byte is meeting (R206, R239). -/
theorem shares_iff_meets (r q : Range) : Spec.Shares r.base r.size q.base q.size ↔ r.Meets q := by
  simp only [Range.meets_iff_common, Spec.Shares, Range.Contains, and_assoc]

/-- An `xmit` past the last address records its hazard, or else stops (log 11). -/
theorem execXmit_of_past {a : Word} {k : Nat} (h : Config.addrLimit < a.toNat + k) (mode : XmitMode) (s : State) :
    execXmit a k mode s =
      if s.TransmitHazard a.toNat k then .next (s.addFault .transmitWhileBusy).advance
      else .fault .outsideAddressSpace :=
  if_pos h

/-- Settles O39: the hazard of R239 decides between the record of TransmitWhileBusy and the stop. -/
theorem xmitPastTheEndStops : Obligations.XmitPastTheEndStops := by
  unfold Obligations.XmitPastTheEndStops
  intro a k mode s hpast
  have hazard : s.block.status.busy = true ∧
      Spec.Shares a.toNat k s.block.dstRange.base s.block.dstRange.size ↔ s.TransmitHazard a.toNat k :=
    and_congr_right fun _ => shares_iff_meets ⟨a.toNat, k⟩ s.block.dstRange
  rw [hazard, execXmit_of_past hpast]
  refine ⟨fun hz => if_neg hz, fun hz => ⟨_, if_pos hz, ?_, rfl, rfl, rfl, s.untouched_addFault_advance _, ?_⟩⟩
  · exact fun f => ModelFault.mem_insert .transmitWhileBusy f s.faults
  · exact step_of_faulted (ModelFault.insert_ne_nil .transmitWhileBusy s.faults)

end Sys2Proof.Machine

namespace Sys2Proof

/-! ### The decoder on the encoder's transactions (R73, R87) -/

/-- The instruction that an aligned 32-bit access of register `r` is: RD, or for a write the row of its CTRL word, or
WR (R73). -/
def Reg.accessInstr (r : Reg) : BusKind → Instr
  | .read t => .rd r t
  | .write d => if r = .ctrl then decodeCtrl d else .wr r d

theorem Reg.accessInstr_write {r : Reg} (hr : r ≠ .ctrl) (d : Word) : r.accessInstr (.write d) = .wr r d :=
  if_neg hr

theorem decode_register (k : BusKind) (r : Reg) : decode ⟨k, r.offset, 4⟩ = .ok (r.accessInstr k) := by
  obtain ⟨hspan, halign⟩ := r.offset_facts
  have hspan' : ¬ Config.regSpan ≤ r.offset.toNat := Nat.not_le.2 hspan
  cases k with
  | read t => simp [decode, Reg.accessInstr, hspan', halign]
  | write d =>
    simp only [decode, Reg.accessInstr, hspan', halign, offsetReg_offset, ne_eq, not_true, or_self, if_false]
    exact (apply_ite Except.ok _ _ _).symm

theorem decode_writeAccess {r : Reg} (hr : r ≠ .ctrl) (d : Word) : decode (writeAccess r d) = .ok (.wr r d) :=
  Reg.accessInstr_write hr d ▸ decode_register (.write d) r

theorem decode_writeAccess_ctrl (d : Word) : decode (writeAccess .ctrl d) = .ok (decodeCtrl d) :=
  decode_register (.write d) .ctrl

@[simp] theorem decodeCtrl_ctrlWord_false (ign : BitVec 27) (sch op : BitVec 2) :
    decodeCtrl (ctrlWord false ign sch op) = .ctrlset ign sch op := by
  simp [decodeCtrl]

@[simp] theorem decodeCtrl_ctrlWord_true (ign : BitVec 27) (sch op : BitVec 2) :
    decodeCtrl (ctrlWord true ign sch op) = decodeStart ign sch op := by
  simp [decodeCtrl]

theorem decode_ctrlset (ign : BitVec 27) (sch op : BitVec 2) :
    decode (writeAccess .ctrl (ctrlWord false ign sch op)) = .ok (.ctrlset ign sch op) := by
  simp [decode_writeAccess_ctrl]

theorem decode_startAccess (ign : BitVec 27) (sch op : BitVec 2) :
    decode (startAccess ign sch op) = .ok (decodeStart ign sch op) := by
  simp [startAccess, decode_writeAccess_ctrl]

/-- Settles O1: an access of a register gives the register back, and a CTRL word its fields; each START row is
`decodeStart` of its own selectors. -/
theorem decodeOfEncode : Obligations.DecodeOfEncode := by
  unfold Obligations.DecodeOfEncode
  intro i hwf
  cases i with
  | rd r t => exact decode_register (.read t) r
  | wr r d =>
    have hr : r ≠ .ctrl := by simpa [Instr.wf] using hwf
    exact decode_writeAccess hr d
  | ctrlset ign sch op => exact decode_ctrlset ign sch op
  | _ => exact decode_startAccess _ _ _

/-- A transaction that decodes is an aligned 32-bit access of a register (R57, R87). -/
theorem eq_register_of_decode {a : BusAccess} {i : Instr} (h : decode a = .ok i) :
    ∃ (k : BusKind) (r : Reg), a = ⟨k, r.offset, 4⟩ ∧ i = r.accessInstr k := by
  by_cases hspan : a.offset.toNat < Config.regSpan
  case neg => simp [decode_of_outside (Nat.not_lt.1 hspan)] at h
  by_cases hbad : a.width ≠ 4 ∨ a.offset.toNat % 4 ≠ 0
  case pos => simp [decode_of_misaligned hspan hbad] at h
  obtain ⟨hwidth, halign⟩ : a.width = 4 ∧ a.offset.toNat % 4 = 0 := by simpa [not_or] using hbad
  have ha : a = ⟨a.kind, (offsetReg a.offset).offset, 4⟩ := by rw [offset_offsetReg hspan halign, ← hwidth]
  rw [ha, decode_register] at h
  exact ⟨a.kind, offsetReg a.offset, ha, (Except.ok.inj h).symm⟩

/-- Every CTRL word is the encoding of what it decodes to (R73, R83). -/
theorem encode_decodeCtrl (w : Word) : encode (decodeCtrl w) = writeAccess .ctrl w := by
  cases hs : ctrlStart w with
  | false => rw [decodeCtrl, hs, if_neg Bool.false_ne_true, encode, ← hs, ctrlWord_fields]
  | true => rw [decodeCtrl, if_pos hs, decodeStart_encode, startAccess, ← hs, ctrlWord_fields]

/-- Only a WR that names CTRL is ill formed, and no CTRL word decodes to a WR. -/
theorem wf_decodeCtrl (w : Word) : (decodeCtrl w).wf = true := by
  unfold decodeCtrl decodeStart
  split_ifs <;> rfl

/-- Settles O2: the transaction is a register's read, its write, or a CTRL word. -/
theorem encodeOfDecode : Obligations.EncodeOfDecode := by
  unfold Obligations.EncodeOfDecode
  intro a i h
  obtain ⟨k, r, rfl, rfl⟩ := eq_register_of_decode h
  cases k with
  | read t => exact ⟨rfl, rfl⟩
  | write d =>
    by_cases hr : r = .ctrl
    · subst hr
      exact ⟨encode_decodeCtrl d, wf_decodeCtrl d⟩
    · rw [Reg.accessInstr_write hr]
      exact ⟨rfl, by simpa [Instr.wf] using hr⟩

/-! ### The CTRL words by masks (R73, R83) -/

theorem ctrlStart_and (w m : Word) : ctrlStart (w &&& m) = (ctrlStart w && ctrlStart m) :=
  BitVec.getLsbD_and

theorem ctrlScheme_and (w m : Word) : ctrlScheme (w &&& m) = ctrlScheme w &&& ctrlScheme m :=
  BitVec.extractLsb'_and

theorem ctrlOp_and (w m : Word) : ctrlOp (w &&& m) = ctrlOp w &&& ctrlOp m :=
  BitVec.extractLsb'_and

/-- A mask that holds bit 31 keeps START. -/
theorem ctrlStart_of_mask {w m c : Word} (h : w &&& m = c) (hm : ctrlStart m = true) : ctrlStart w = ctrlStart c := by
  rw [← h, ctrlStart_and, hm, Bool.and_true]

/-- A mask that holds bits 3:2 keeps SCHEME. -/
theorem ctrlScheme_of_mask {w m c : Word} (h : w &&& m = c) (hm : ctrlScheme m = 3#2) :
    ctrlScheme w = ctrlScheme c := by
  rw [← h, ctrlScheme_and, hm]
  exact BitVec.and_allOnes.symm

/-- A mask that holds bits 1:0 keeps OP. -/
theorem ctrlOp_of_mask {w m c : Word} (h : w &&& m = c) (hm : ctrlOp m = 3#2) : ctrlOp w = ctrlOp c := by
  rw [← h, ctrlOp_and, hm]
  exact BitVec.and_allOnes.symm

theorem decode_ctrlAccess (w : Word) : decode (Spec.ctrlAccess w) = .ok (decodeCtrl w) := decode_writeAccess_ctrl w

/-- A word with START = 0 decodes to CTRLSET (R83). -/
theorem decode_ctrlAccess_idle {w : Word} (h : w &&& 0x80000000#32 = 0x00000000#32) :
    decode (Spec.ctrlAccess w) = .ok (.ctrlset (ctrlIgn w) (ctrlScheme w) (ctrlOp w)) := by
  have hs : ctrlStart w = false := ctrlStart_of_mask h rfl
  rw [decode_ctrlAccess, decodeCtrl, hs, if_neg Bool.false_ne_true]

/-- A word with START = 1 decodes to the row of its selectors (R73). -/
theorem decode_ctrlAccess_start {w : Word} (h : ctrlStart w = true) :
    decode (Spec.ctrlAccess w) = .ok (decodeStart (ctrlIgn w) (ctrlScheme w) (ctrlOp w)) := by
  rw [decode_ctrlAccess, decodeCtrl, if_pos h]

/-- A word with the START, SCHEME and OP bits of the START word `c` decodes to `c`'s row (R73). -/
theorem decode_ctrlAccess_row {w c : Word} (h : w &&& 0x8000000F#32 = c) (hc : ctrlStart c = true) :
    decode (Spec.ctrlAccess w) = .ok (decodeStart (ctrlIgn w) (ctrlScheme c) (ctrlOp c)) := by
  rw [← ctrlScheme_of_mask h rfl, ← ctrlOp_of_mask h rfl]
  exact decode_ctrlAccess_start ((ctrlStart_of_mask h rfl).trans hc)

/-- A START word with OP = 0b11 decodes to RESERVED_OP (R73). -/
theorem decode_ctrlAccess_reservedOp {w : Word} (h : w &&& 0x80000003#32 = 0x80000003#32) :
    decode (Spec.ctrlAccess w) = .ok (.reservedOp (ctrlIgn w) (ctrlScheme w)) := by
  rw [decode_ctrlAccess_start (ctrlStart_of_mask h rfl), ctrlOp_of_mask h rfl]
  rfl

/-- Settles O3: the row of each masked value is `decodeStart` of that value's selectors. -/
theorem ctrlWordsDecodeByTheTable : Obligations.CtrlWordsDecodeByTheTable := by
  unfold Obligations.CtrlWordsDecodeByTheTable
  intro w
  refine ⟨fun h => ⟨_, decode_ctrlAccess_idle h⟩, ?_, ?_, ?_, ?_, ?_, ?_,
    fun h => ⟨_, decode_ctrlAccess_reservedOp h⟩, ?_, ?_, ?_, ?_, ?_, ?_⟩
  all_goals exact fun h => ⟨ctrlIgn w, decode_ctrlAccess_row h rfl⟩

end Sys2Proof

namespace Sys2Proof.Machine

/-! ### The slot of a color (R80, R105) -/

/-- A slot is three groups of `factor` bytes: green's, red's and blue's. -/
theorem encodeColor_groups (s : Scheme) (c : Color) :
    (encodeColor s c).take s.factor = chan s c.green ∧
    ((encodeColor s c).drop s.factor).take s.factor = chan s c.red ∧
    (encodeColor s c).drop (2 * s.factor) = chan s c.blue := by
  rw [encodeColor_eq]
  have hdrop : (chan s c.green ++ (chan s c.red ++ chan s c.blue)).drop s.factor = chan s c.red ++ chan s c.blue :=
    List.drop_left' (chan_length s c.green)
  refine ⟨List.take_left' (chan_length s c.green), ?_, ?_⟩
  · rw [hdrop, List.take_left' (chan_length s c.red)]
  · rw [Nat.two_mul, ← List.drop_drop, hdrop, List.drop_left' (chan_length s c.red)]

/-- Settles O30: the three groups of either scheme. -/
theorem slotIsGreenRedBlue : Obligations.SlotIsGreenRedBlue := by
  unfold Obligations.SlotIsGreenRedBlue
  intro c
  obtain ⟨green3, red3, blue3⟩ := encodeColor_groups .threeBit c
  obtain ⟨green4, red4, blue4⟩ := encodeColor_groups .fourBit c
  exact ⟨encodeColor_length .threeBit c, green3, red3, blue3, encodeColor_length .fourBit c, green4, red4, blue4⟩

/-! ### The channel encoders as bit strings (R78, R79, R101, R103)

Each encoder and its closed form put the same bits on the wire, and bytes are told by their wire bits. -/

/-- A byte is told by its bits. -/
theorem bitsOf_injective {a b : Byte} (h : bitsOf a = bitsOf b) : a = b := by
  apply BitVec.eq_of_getLsbD_eq
  intro i hi
  have hbit := List.map_inj_left.1 h (7 - i) (List.mem_range.2 (by omega))
  rwa [show 7 - (7 - i) = i by omega] at hbit

/-- Bytes are told by their wire bits (R181). -/
theorem wire_injective {as bs : List Byte} (h : wire as = wire bs) : as = bs := by
  have hlen := congrArg List.length h
  rw [wire_length, wire_length] at hlen
  induction as generalizing bs with
  | nil =>
    cases bs with
    | nil => rfl
    | cons b bs => simp at hlen
  | cons a as ih =>
    cases bs with
    | nil => simp at hlen
    | cons b bs =>
      rw [wire_cons, wire_cons] at h
      obtain ⟨hbyte, hrest⟩ := List.append_inj h (by rw [bitsOf_length, bitsOf_length])
      rw [bitsOf_injective hbyte, ih hrest (by simpa [Nat.mul_add] using hlen)]

theorem getElem_ite {n i : Nat} (h : i < n) (p : Prop) [Decidable p] (x y : BitVec n) :
    (if p then x else y)[i] = if p then x[i] else y[i] :=
  apply_ite (fun z : BitVec n => z[i]) p x y

/-- A row of PERM3 changes its own byte alone (R100). -/
theorem perm3Step_eq_modify (v : Byte) (o : List Byte) (row : Nat × Nat × Byte) :
    perm3Step v o row = o.modify row.2.1 fun x => if v.getLsbD row.1 then x ||| row.2.2 else x := by
  unfold perm3Step
  cases v.getLsbD row.1 with
  | true => rfl
  | false => exact (List.modify_id row.2.1 o).symm

theorem wire_chan3 (v : Byte) :
    wire (chan3 v) = (List.range 8).flatMap fun j => [true, v.getLsbD (7 - j), false] := by
  simp [wire, bitsOf, chan3, perm3, skeleton3, perm3Step_eq_modify, getElem_ite, List.range, List.range.loop]

theorem wire_chan3Closed (v : Byte) :
    wire (chan3Closed v) = (List.range 8).flatMap fun j => [true, v.getLsbD (7 - j), false] := by
  simp [wire, bitsOf, chan3Closed, w24, List.range, List.range.loop]

/-- A value of LUT4 holds two `1 v v 0` groups (R102). -/
theorem bitsOf_lut4 (g : BitVec 2) :
    bitsOf (lut4 g) = [true, g.getLsbD 1, g.getLsbD 1, false, true, g.getLsbD 0, g.getLsbD 0, false] := by
  revert g
  decide

theorem wire_chan4 (v : Byte) :
    wire (chan4 v) = (List.range 8).flatMap fun j => [true, v.getLsbD (7 - j), v.getLsbD (7 - j), false] := by
  simp [wire, bitsOf_lut4, chan4, List.range, List.range.loop]

theorem wire_chan4Closed (v : Byte) :
    wire (chan4Closed v) = (List.range 8).flatMap fun j => [true, v.getLsbD (7 - j), v.getLsbD (7 - j), false] := by
  simp [wire, bitsOf, chan4Closed, w32, getElem_ite, List.range, List.range.loop]

/-- Settles O28: the closed forms follow from the wire strings. -/
theorem channelBitStrings : Obligations.ChannelBitStrings := by
  unfold Obligations.ChannelBitStrings
  exact fun v => ⟨wire_chan3 v, wire_chan4 v, wire_injective ((wire_chan3 v).trans (wire_chan3Closed v).symm),
    wire_injective ((wire_chan4 v).trans (wire_chan4Closed v).symm)⟩

/-! ### The pseudo-instructions' words (R85) -/

/-- The word of `CTRLSET` is a CTRL word with START = 0. -/
theorem ctrlset_word (sch op : BitVec 2) :
    (sch.setWidth 32 <<< 2) ||| op.setWidth 32 = ctrlWord false 0#27 sch op := by
  apply BitVec.eq_of_getLsbD_eq
  intro i hi
  rw [getLsbD_ctrlWord]
  by_cases h2 : i < 2
  · simp [h2, hi]
  · rw [BitVec.getLsbD_or, BitVec.getLsbD_setWidth, BitVec.getLsbD_of_ge op i (Nat.not_lt.1 h2)]
    by_cases h4 : i < 4
    · simp [h2, h4, hi]
    · simp [h2, h4, BitVec.getLsbD_of_ge sch (i - 2) (by omega)]

/-- The word of `setcolor` holds the color: its three bytes share no bit. -/
theorem colorOfWord_setcolor (r g b : Byte) :
    colorOfWord ((r.setWidth 32 <<< 16) ||| (g.setWidth 32 <<< 8) ||| b.setWidth 32) = ⟨r, g, b⟩ := by
  unfold colorOfWord
  congr 1
  all_goals
    apply BitVec.eq_of_getLsbD_eq
    intro i hi
    simp (disch := omega) [hi, BitVec.getLsbD_of_ge, decide_eq_true, decide_eq_false]

/-- While idle a WR writes its register alone (R161). -/
theorem exec_wr_of_idle {s : State} (hb : s.block.status.busy = false) {r : Reg} (hr : r ≠ .ctrl) (d : Word) :
    exec (.wr r d) s = .next (s.withBlock (s.block.store d r)).advance := by
  simp [exec, execWr, State.writeReg, hb, hr]

/-- While idle a CTRLSET writes the selectors alone (R163). -/
theorem exec_ctrlset_of_idle {s : State} (hb : s.block.status.busy = false) (ign : BitVec 27) (sch op : BitVec 2) :
    exec (.ctrlset ign sch op) s = .next (s.setSelectors sch op).advance := by
  simp [exec, execCtrlset, hb]

/-- Settles O45: each expansion is one register write, whose word holds the fields. -/
theorem pseudoInstructionsSetTheirFields : Obligations.PseudoInstructionsSetTheirFields := by
  unfold Obligations.PseudoInstructionsSetTheirFields
  intro s hidle
  refine ⟨fun r g b => ?_, fun op sch => ?_⟩
  · have hne : Reg.color ≠ .ctrl := by decide
    have hrun := fun d => (execBus_of_decode (decode_writeAccess hne d) s).trans (exec_wr_of_idle hidle hne d)
    exact ⟨_, _, rfl, hrun _, colorOfWord_setcolor r g b⟩
  · have hdec : decode (writeAccess .ctrl ((sch.setWidth 32 <<< 2) ||| op.setWidth 32)) =
        .ok (.ctrlset 0#27 sch op) := by
      rw [ctrlset_word]
      exact decode_ctrlset 0#27 sch op
    have hrun := (execBus_of_decode hdec s).trans (exec_ctrlset_of_idle hidle 0#27 sch op)
    exact ⟨_, _, rfl, hrun, rfl, rfl, rfl⟩

/-! ### An instruction placed at `hpc` (log 14) -/

theorem getElem?_placeStmt (p : Program) (n : Nat) (st : Stmt) :
    ∃ line, (placeStmt p n st)[n]? = some line ∧ line.stmt = st := by
  have hn : n < (p ++ List.replicate (n + 1 - p.length) (Line.mk none .xwait)).length := by
    simp
    omega
  exact ⟨_, by rw [placeStmt, List.getElem?_modify_eq, List.getElem?_eq_getElem hn]; rfl, rfl⟩

/-- Settles O47: the placed statement is the transaction at `hpc`, which decodes to the instruction; taking the host's
turn leaves the state with the new program. -/
theorem placedInstructionRunsNext : Obligations.PlacedInstructionRunsNext := by
  unfold Obligations.PlacedInstructionRunsNext
  intro s i hwf hf
  obtain ⟨line, hline, hstmt⟩ := getElem?_placeStmt s.program s.hpc (.bus (encode i))
  exact stepRunsTheDecodedInstruction _ line (encode i) i hf rfl hline hstmt (decodeOfEncode i hwf)

end Sys2Proof.Machine

namespace Sys2Proof.Machine

/-! ### The bytes of chan3 (R100, R110)

A row of PERM3 ORs its mask into one byte where its source bit is set. The masks share no bit with the skeleton or with
each other: a mask disjoint from a row's sees nothing of that row, and a row's own mask tells its source bit. -/

/-- A row's OR, where its source bit is set (R100). -/
def orWhen (p : Bool) (m x : Byte) : Byte := if p then x ||| m else x

theorem orWhen_and_of_disjoint {m k : Byte} (h : m &&& k = 0#8) (p : Bool) (x : Byte) :
    orWhen p m x &&& k = x &&& k := by
  cases p with
  | true => rw [orWhen, if_pos rfl, BitVec.and_or_distrib_right, h, BitVec.or_zero]
  | false => rfl

theorem orWhen_and_self (p : Bool) (m x : Byte) : orWhen p m x &&& m = if p then m else x &&& m := by
  cases p with
  | true =>
    apply BitVec.eq_of_getLsbD_eq
    intro i hi
    cases hm : m.getLsbD i <;> simp [orWhen, hm]
  | false => rfl

/-- The three bytes of `chan3`, with the rows of PERM3 that each holds (R100). -/
theorem chan3_bytes (v : Byte) :
    chan3 v =
      [orWhen (v.getLsbD 5) 0x01#8 (orWhen (v.getLsbD 6) 0x08#8 (orWhen (v.getLsbD 7) 0x40#8 0x92#8)),
        orWhen (v.getLsbD 3) 0x04#8 (orWhen (v.getLsbD 4) 0x20#8 0x49#8),
        orWhen (v.getLsbD 0) 0x02#8 (orWhen (v.getLsbD 1) 0x10#8 (orWhen (v.getLsbD 2) 0x80#8 0x24#8))] := by
  simp only [chan3, perm3, skeleton3, List.foldl, perm3Step_eq_modify]
  rfl

/-! ### The round trips (R108, R109) -/

/-- The mask of a PERM3 row tells the row's source bit (R108). -/
theorem chan3_and_mask_ne_zero_iff (v : Byte) {row : Nat × Nat × Byte} (h : row ∈ perm3) :
    (chan3 v).getD row.2.1 0x00#8 &&& row.2.2 ≠ 0x00#8 ↔ v.getLsbD row.1 = true := by
  rw [chan3_bytes]
  fin_cases h <;> simp [orWhen_and_self, orWhen_and_of_disjoint]

/-- `dec3` inverts `chan3` (R108): it puts each row's source bit back at its place. -/
theorem dec3_chan3 (v : Byte) : dec3 (chan3 v) = v := by
  have hbits : dec3 (chan3 v) =
      perm3.foldl (fun w row => w ||| ((if v.getLsbD row.1 then 0x01#8 else 0x00#8) <<< row.1)) 0x00#8 :=
    List.foldl_ext _ _ _ fun w row hrow => by simp only [chan3_and_mask_ne_zero_iff v hrow]
  rw [hbits]
  apply BitVec.eq_of_getLsbD_eq
  intro i hi
  interval_cases i <;> simp [perm3, getElem_ite]

theorem idx4_lut4 (g : BitVec 2) : idx4 (lut4 g) = some g := by
  revert g
  decide

/-- `dec4` inverts `chan4` (R109): the four 2-bit groups make up the byte. -/
theorem dec4_chan4 (v : Byte) : dec4 (chan4 v) = some v := by
  have hgroups : v.extractLsb' 6 2 ++ v.extractLsb' 4 2 ++ v.extractLsb' 2 2 ++ v.extractLsb' 0 2 = v := by
    rw [BitVec.extractLsb'_append_extractLsb'_eq_extractLsb' (by decide),
      BitVec.extractLsb'_append_extractLsb'_eq_extractLsb' (by decide),
      BitVec.extractLsb'_append_extractLsb'_eq_extractLsb' (by decide)]
    exact BitVec.extractLsb'_eq_self
  simp [chan4, dec4, idx4_lut4, hgroups, List.range, List.range.loop]

theorem decChan_chan (s : Scheme) (v : Byte) : decChan s (chan s v) = some v := by
  cases s with
  | threeBit => exact congrArg some (dec3_chan3 v)
  | fourBit => exact dec4_chan4 v

/-- Settles O31: each group of the slot is one channel's encoding, which `decChan` inverts. -/
theorem decodeColorOfEncodeColor : Obligations.DecodeColorOfEncodeColor := by
  unfold Obligations.DecodeColorOfEncodeColor
  intro s c
  obtain ⟨green, red, blue⟩ := encodeColor_groups s c
  rw [decodeColor, green, red, blue, List.take_of_length_le (chan_length s c.blue).le]
  simp only [decChan_chan]

/-! ### Injectivity (R112) -/

theorem bytesPerColor_injective : ∀ {s u : Scheme}, s.bytesPerColor = u.bytesPerColor → s = u
  | .threeBit, .threeBit, _ => rfl
  | .fourBit, .fourBit, _ => rfl

/-- Settles O32: the length tells the scheme, and decoding tells the color. -/
theorem encodeColorIsInjective : Obligations.EncodeColorIsInjective := by
  unfold Obligations.EncodeColorIsInjective
  intro s u c d h
  have hlen := congrArg List.length h
  rw [encodeColor_length, encodeColor_length] at hlen
  obtain rfl := bytesPerColor_injective hlen
  have hdec := congrArg (decodeColor s) h
  rw [decodeColorOfEncodeColor, decodeColorOfEncodeColor] at hdec
  exact ⟨rfl, Option.some.inj hdec⟩

/-! ### The invariants of the channel bytes (R110, R111) -/

theorem lut4_mem (g : BitVec 2) : lut4 g ∈ [0x88#8, 0x8E#8, 0xE8#8, 0xEE#8] := by
  revert g
  decide

/-- Settles O29: no row's mask meets its byte's skeleton masks, so they see the skeleton alone; every byte of `chan4` is
a value of LUT4. -/
theorem channelInvariants : Obligations.ChannelInvariants := by
  unfold Obligations.ChannelInvariants
  intro v
  constructor
  · refine ⟨_, _, _, chan3_bytes v, ?_⟩
    simp [orWhen_and_of_disjoint]
  · intro x hx
    obtain ⟨k, -, rfl⟩ := List.mem_map.1 hx
    exact lut4_mem _

end Sys2Proof.Machine

namespace Sys2Proof.Machine

/-! ### The frame laws (R120 to R124) -/

/-- A frame of `n` colors the sequence covers ends where slot `n` begins. -/
theorem frame_length (s : Scheme) {colors : List Color} {n : Nat} (hn : n ≤ colors.length) :
    (frame s colors n).length = slotOffset s n := by
  rw [frame, flatMap_encodeColor_length, List.length_take_of_le hn, slotOffset, Nat.mul_comm]

/-- A frame is the frame of the colors before color `i`, then slot `i`, then the slots behind it. -/
theorem frame_split_at (s : Scheme) {colors : List Color} {n i : Nat} (h : i < colors.length) (hn : i < n) :
    frame s colors n =
      frame s colors i ++ (encodeColor s colors[i] ++ ((colors.take n).drop (i + 1)).flatMap (encodeColor s)) := by
  have hi : i < (colors.take n).length := by simp [h, hn]
  have hcolors : colors.take n = colors.take i ++ colors[i] :: (colors.take n).drop (i + 1) := by
    calc colors.take n = (colors.take n).take i ++ (colors.take n).drop i := (List.take_append_drop i _).symm
      _ = colors.take i ++ colors[i] :: (colors.take n).drop (i + 1) := by
        rw [List.take_take, Nat.min_eq_left hn.le, List.drop_eq_getElem_cons hi, List.getElem_take]
  rw [frame, frame, ← List.flatMap_cons, ← List.flatMap_append, ← hcolors]

/-- Settles O35: both sides are `n` copies of the color's slot, end to end. -/
theorem frameSingleIsReplicate : Obligations.FrameSingleIsReplicate := by
  unfold Obligations.FrameSingleIsReplicate
  intro s c n
  have htake : (List.replicate n c).take n = List.replicate n c := List.take_of_length_le (by simp)
  rw [frameSingle, frame, htake, List.flatMap_def, List.map_replicate]

/-- Settles O34: a frame ends at slot `n`'s offset, and the single-color frame is a frame of `n` copies (O35). -/
theorem frameSizeLaw : Obligations.FrameSizeLaw := by
  unfold Obligations.FrameSizeLaw
  intro s colors c n hn
  have hoffset : slotOffset s n = s.factor * 3 * n := by
    rw [slotOffset, Scheme.bytesPerColor, Nat.mul_comm n, Nat.mul_comm 3]
  rw [frameSingleIsReplicate, frame_length s hn, frame_length s (by simp), hoffset]
  exact ⟨rfl, rfl⟩

/-- Settles O33: slot `i` stands behind the frame of the colors before it, which is `slotOffset` long. -/
theorem frameSliceLaw : Obligations.FrameSliceLaw := by
  unfold Obligations.FrameSliceLaw
  intro s colors n i h hin _
  rw [frame_split_at s h hin, List.drop_left' (frame_length s h.le), List.take_left' (encodeColor_length s _)]

/-! ### Idempotence (R127) -/

theorem coreStep_mem_wf {s : State} (hm : s.mem.wf) : (coreStep s).mem.wf := by
  rcases coreStep_cases s with ⟨-, h⟩ | ⟨e, -, -, h⟩ | ⟨-, -, -, h⟩ | ⟨-, hc, -, -, h⟩ <;> rw [h]
  · exact hm
  · exact hm
  · exact hm
  · exact Memory.wf_writeBytes hm (by rw [body_length]; exact check_none_bound hc)

/-- A command that passes its check leaves its source bytes, which its destination does not meet (R206, R207). -/
theorem coreStep_read_src {s : State} (hm : s.mem.wf) (hc : check s.platform.span s.block = none) {a : Nat}
    (ha : s.block.srcRange.Contains a) : (coreStep s).mem.read a = s.mem.read a := by
  obtain ⟨-, -, -, -, hdisjoint⟩ := check_none hc
  exact coreStep_read_outside hm fun hdst => hdisjoint ((Range.meets_iff_common _ _).2 ⟨a, ha, hdst⟩)

/-- Settles O27: the second run starts from the same registers and source bytes, so it writes the same destination
bytes (O58), and neither run writes outside the destination. -/
theorem commandIsIdempotent : Obligations.CommandIsIdempotent := by
  unfold Obligations.CommandIsIdempotent
  intro s a hm hb hc hsrc hdst
  have hm' : (coreStep s).mem.wf := coreStep_mem_wf hm
  by_cases ha : s.block.dstRange.Contains a
  · have hplatform : (coreStep s).platform = s.platform := (coreStep_sameSetup s).1
    have hfaults : (coreStep s).faults = s.faults := by
      rw [coreStep_of_ok hb hc hsrc hdst, State.complete_faults, State.withMem_faults]
    obtain ⟨-, -, hbytes⟩ := equalOperandsGiveEqualResults s ((coreStep s).withBlock s.block) hm hm' hplatform.symm
      rfl hfaults.symm fun x hx => (coreStep_read_src hm hc hx).symm
    exact (hbytes hb hc hsrc hdst a ha).symm
  · exact coreStep_read_outside (s := (coreStep s).withBlock s.block) hm' ha

end Sys2Proof.Machine

namespace Sys2Proof

/-! ### The selectors' codes (R71, R72) -/

/-- The code that SCHEME holds for a scheme (R72). -/
def Scheme.code : Scheme → BitVec 2
  | .threeBit => 0b00#2
  | .fourBit => 0b01#2

theorem Scheme.code_defined (sch : Scheme) : sch.code = 0b00#2 ∨ sch.code = 0b01#2 := by cases sch <;> decide

theorem Scheme.exists_code {x : BitVec 2} (h : x = 0b00#2 ∨ x = 0b01#2) : ∃ sch : Scheme, x = sch.code :=
  h.elim (fun h => ⟨.threeBit, h⟩) fun h => ⟨.fourBit, h⟩

/-- The code that OP holds for an operation (R71). -/
def Machine.Op.code : Machine.Op → BitVec 2
  | .encode => 0b00#2
  | .buildFrame => 0b01#2
  | .buildSingle => 0b10#2

/-! ### Statements that drive the line, and empty ranges -/

/-- The statement can put something on the line (R180, R189). -/
def Stmt.Drives (x : Stmt) : Prop := x = .settle ∨ ∃ a k mode, x = .xmit a k mode

theorem Platform.admits_of_empty {p : Platform} {r : Range} (h : r.size = 0) : p.Admits r :=
  fun _ hi => absurd (h ▸ hi) (Nat.not_lt_zero _)

end Sys2Proof

namespace Sys2Proof.Machine

/-! ### Which codes are defined, and which the START rows carry (R71, R72, R73) -/

theorem opOf_eq_some_iff {x : BitVec 2} {o : Op} : opOf x = some o ↔ x = o.code := by
  revert x
  cases o <;> decide

theorem schemeOf_eq_some_iff {x : BitVec 2} {sch : Scheme} : schemeOf x = some sch ↔ x = sch.code := by
  revert x
  cases sch <;> decide

/-- The one reserved OP is 0b11 (R71). -/
theorem Op.code_ne_reserved (o : Op) : o.code ≠ 0b11#2 := by cases o <;> decide

theorem opOf_eq_none_iff {x : BitVec 2} : opOf x = none ↔ x = 0b11#2 := by
  revert x
  decide

theorem Op.exists_code {x : BitVec 2} (h : x ≠ 0b11#2) : ∃ o : Op, x = o.code := by
  obtain ⟨o, ho⟩ := Option.ne_none_iff_exists'.1 (mt opOf_eq_none_iff.1 h)
  exact ⟨o, opOf_eq_some_iff.1 ho⟩

theorem startSelectors_encodeInstr (sch : Scheme) (ign : BitVec 27) :
    Spec.startSelectors (Spec.encodeInstr sch ign) = some (sch.code, Op.encode.code) := by
  cases sch <;> rfl

theorem startSelectors_buildframeInstr (sch : Scheme) (ign : BitVec 27) :
    Spec.startSelectors (Spec.buildframeInstr sch ign) = some (sch.code, Op.buildFrame.code) := by
  cases sch <;> rfl

theorem startSelectors_buildsingleInstr (sch : Scheme) (ign : BitVec 27) :
    Spec.startSelectors (Spec.buildsingleInstr sch ign) = some (sch.code, Op.buildSingle.code) := by
  cases sch <;> rfl

/-! ### A command's ranges, sizes and body (R77, R143 to R148) -/

theorem slotBytes_eq (sch : Scheme) : Spec.slotBytes sch = sch.bytesPerColor := by cases sch <;> rfl

theorem Block.command_of_codes {b : Block} {o : Op} {sch : Scheme} (ho : b.op = o.code) (hs : b.scheme = sch.code) :
    b.command = some (o, sch) :=
  Block.command_eq_some.2 ⟨opOf_eq_some_iff.2 ho, schemeOf_eq_some_iff.2 hs⟩

section Command

variable {b : Block} {o : Op} {sch : Scheme}

theorem Block.dstRange_of_command (h : b.command = some (o, sch)) :
    b.dstRange = ⟨b.dstAddr.toNat, nbytes o sch b.count⟩ := by
  simp [Block.dstRange, h]

theorem Block.srcRange_of_command (h : b.command = some (o, sch)) :
    b.srcRange = ⟨b.srcAddr.toNat, srcbytes o b.count⟩ := by
  simp [Block.srcRange, h]

theorem body_of_encode (h : b.command = some (.encode, sch)) (m : Memory) :
    body b m = encodeColor sch b.color := by
  cases sch <;> simp only [body, h] <;> rfl

theorem body_of_buildFrame (h : b.command = some (.buildFrame, sch)) (m : Memory) :
    body b m = frame sch (colorSeq m b.srcAddr.toNat b.count) b.count := by
  cases sch <;> simp only [body, h] <;> rfl

theorem body_of_buildSingle (h : b.command = some (.buildSingle, sch)) (m : Memory) :
    body b m = frame sch ((List.range b.count).map fun _ => b.color) b.count := by
  rw [List.map_const', List.length_range, ← frameSingleIsReplicate]
  cases sch <;> simp only [body, h] <;> rfl

/-- The converse of `check_none`: the conditions under which a command passes (R207). -/
theorem check_eq_none {span : Range} (hcmd : b.command = some (o, sch)) (hdst : ¬ BadRange span b.dstRange)
    (hsrc : ¬ BadRange span b.srcRange) (hcap : b.dstRange.size ≤ b.dstCap.toNat)
    (hdisjoint : ¬ b.srcRange.Meets b.dstRange) : check span b = none := by
  obtain ⟨hop, hscheme⟩ := Block.command_eq_some.1 hcmd
  rw [check, if_neg (by simp [hop]), if_neg (by simp [hscheme]), if_neg hdst, if_neg hsrc,
    if_neg (Nat.not_lt.2 hcap), if_neg hdisjoint]

end Command

/-- A reserved OP fails the check first (R207). -/
theorem check_of_reservedOp (span : Range) {b : Block} (h : opOf b.op = none) : check span b = some .badOp := if_pos h

/-- A reserved SCHEME with a defined OP fails the check next (R207). -/
theorem check_of_reservedScheme (span : Range) {b : Block} (ho : opOf b.op ≠ none) (hs : schemeOf b.scheme = none) :
    check span b = some .badScheme := by
  rw [check, if_neg ho, if_pos hs]

/-! ### The completions (R142, R200) -/

/-- Settles O22: BYTE_COUNT is the body's length, which 32 bits hold, and the body is read back where it was
written. -/
theorem successfulCompletion : Obligations.SuccessfulCompletion := by
  unfold Obligations.SuccessfulCompletion
  intro s hm hb hc hsrc hdst
  have hlen : (body s.block s.mem).length = s.block.dstRange.size := body_length s.block s.mem
  have hsize : s.block.dstRange.size < 2 ^ 32 := s.block.dstRange_size_le.trans_lt (by decide)
  have hbound : s.block.dstAddr.toNat + (body s.block s.mem).length ≤ Config.addrLimit := hlen ▸ check_none_bound hc
  rw [coreStep_of_ok hb hc hsrc hdst]
  refine ⟨rfl, ?_, ?_⟩
  · rw [State.complete_block, hlen, BitVec.toNat_ofNat, Nat.mod_eq_of_lt hsize]
  · rw [State.complete_mem, State.withMem_mem, Block.dstRange_base, ← hlen]
    exact Memory.readBytes_writeBytes hm hbound

/-- STATUS after a completion without error reads DONE, and IGNORED where it was set (R31, R142). -/
theorem Status.word_completed_none (t : Status) :
    (t.completed none).word = if t.ignored then 0x0000000A#32 else 0x00000002#32 := by
  simp only [Status.completed]
  cases t.ignored <;> decide

/-- Settles O25: both ranges are empty, so the command passes its check, and its body is empty too. -/
theorem zeroCountCompletesWithoutError : Obligations.ZeroCountCompletesWithoutError := by
  unfold Obligations.ZeroCountCompletesWithoutError
  intro s hb hop hscheme hcount
  have hzero : s.block.count = 0 := by simp [Block.count, hcount]
  obtain ⟨sch, hsch⟩ := Scheme.exists_code hscheme
  obtain ⟨o, ho, hnb, hsb⟩ : ∃ o : Op, s.block.op = o.code ∧ nbytes o sch 0 = 0 ∧ srcbytes o 0 = 0 :=
    hop.elim (fun h => ⟨.buildFrame, h, rfl, rfl⟩) fun h => ⟨.buildSingle, h, rfl, rfl⟩
  have hcmd := Block.command_of_codes ho hsch
  have hdst : s.block.dstRange.size = 0 := by rw [Block.dstRange_of_command hcmd, hzero, hnb]
  have hsrc : s.block.srcRange.size = 0 := by rw [Block.srcRange_of_command hcmd, hzero, hsb]
  have hc : check s.platform.span s.block = none :=
    check_eq_none hcmd (by simp [hdst]) (by simp [hsrc]) (by simp [hdst]) (by simp [hsrc])
  have hbody : body s.block s.mem = [] := List.length_eq_zero_iff.1 ((body_length _ _).trans hdst)
  rw [coreStep_of_ok hb hc (Platform.admits_of_empty hsrc) (Platform.admits_of_empty hdst), hbody]
  exact ⟨Status.word_completed_none _, rfl, rfl, rfl⟩

/-! ### Acceptance (R140, R164) -/

/-- STATUS after an acceptance reads BUSY alone (R31, R140). -/
theorem Status.word_accepted : Status.accepted.word = 0x00000001#32 := by decide

/-- The registers once a start with these selectors is accepted (R140). -/
def Block.accepted (b : Block) (sch op : BitVec 2) : Block :=
  { b.withSelectors sch op with status := Status.accepted, byteCount := 0#32 }

theorem State.accept_block_eq_accepted (s : State) (sch op : BitVec 2) :
    (s.accept sch op).block = s.block.accepted sch op := s.accept_block sch op

/-- While idle a START row is accepted. -/
theorem exec_start_of_idle {i : Instr} {sch op : BitVec 2} (h : Spec.startSelectors i = some (sch, op)) {s : State}
    (hb : s.block.status.busy = false) : exec i s = .next (s.accept sch op).advance := by
  simp [exec_of_startSelectors h, startCommand, hb]

/-- An acceptance keeps the writable registers' words (R140). -/
theorem Block.value_accepted (b : Block) (sch op : BitVec 2) {r : Reg} (hr : r ∈ Spec.writable) :
    (b.accepted sch op).value r = b.value r := by
  cases r
  case ctrl | status | byteCount => simp [Spec.writable] at hr
  all_goals rfl

/-- The sizes of R77, as the statements' table gives them. -/
theorem nbytes_eq (o : Op) (sch : Scheme) (n : Nat) :
    nbytes o sch n = (if sch.code = 0b00#2 then 9 else 12) * (if o.code = 0b00#2 then 1 else n) := by
  cases o <;> cases sch <;> rfl

/-- The destination of a start with defined selectors meets a range in flight where they share a byte; with a reserved
one it is empty and meets none (R238). -/
theorem State.owns_dstRange_withSelectors (s : State) (sch op : BitVec 2) :
    s.Owns (s.block.withSelectors sch op).dstRange ↔ op ≠ 0b11#2 ∧ (sch = 0b00#2 ∨ sch = 0b01#2) ∧
      ∃ q ∈ s.owned, Spec.Shares q.base q.size s.block.dstAddr.toNat
        ((if sch = 0b00#2 then 9 else 12) * (if op = 0b00#2 then 1 else s.block.ledCount.toNat)) := by
  by_cases hdef : op ≠ 0b11#2 ∧ (sch = 0b00#2 ∨ sch = 0b01#2)
  · obtain ⟨hop, hsch⟩ := hdef
    obtain ⟨o, rfl⟩ := Op.exists_code hop
    obtain ⟨sc, rfl⟩ := Scheme.exists_code hsch
    have hrange : (s.block.withSelectors sc.code o.code).dstRange =
        ⟨s.block.dstAddr.toNat, nbytes o sc s.block.ledCount.toNat⟩ :=
      Block.dstRange_of_command (Block.command_of_codes rfl rfl)
    rw [hrange, ← nbytes_eq]
    simp only [State.Owns, ← shares_iff_meets, hop, hsch, ne_eq, not_false_eq_true, true_and]
  · have hcmd : (s.block.withSelectors sch op).command = none := by
      rw [Option.eq_none_iff_forall_ne_some]
      rintro ⟨o, sc⟩ h
      obtain ⟨ho, hs⟩ := Block.command_eq_some.1 h
      obtain rfl := opOf_eq_some_iff.1 ho
      obtain rfl := schemeOf_eq_some_iff.1 hs
      exact hdef ⟨o.code_ne_reserved, sc.code_defined⟩
    refine iff_of_false ?_ fun ⟨hop, hsch, _⟩ => hdef ⟨hop, hsch⟩
    simp [State.Owns, Block.dstRange, hcmd]

/-- Settles O13: a START row is an acceptance, whose fault has R238's condition. -/
theorem startIsAcceptedWhileIdle : Obligations.StartIsAcceptedWhileIdle := by
  unfold Obligations.StartIsAcceptedWhileIdle
  intro i sch op s hsel hb
  refine ⟨_, exec_start_of_idle hsel hb, ?_⟩
  rw [State.advance_block, State.accept_block_eq_accepted]
  refine ⟨rfl, rfl, Status.word_accepted, rfl, fun r hr => s.block.value_accepted sch op hr, fun f => ?_, by simp,
    by simp, s.untouched_accept_advance sch op⟩
  rw [State.advance_faults, State.mem_accept_faults, State.owns_dstRange_withSelectors]

/-! ### An accepted command with a reserved selector (R149, R150) -/

/-- An accepted command that fails its check completes with the error's STATUS, BYTE_COUNT 0, and the memory as it
was. -/
theorem start_fails {i : Instr} {sch op : BitVec 2} {s : State} {e : CmdError}
    (hsel : Spec.startSelectors i = some (sch, op)) (hb : s.block.status.busy = false)
    (hc : check s.platform.span (s.block.withSelectors sch op) = some e) :
    ∃ t, exec i s = .next t ∧ t.block.status.busy = true ∧
      (coreStep t).block.value .status = (Status.accepted.completed (some e)).word ∧
      (coreStep t).block.value .byteCount = 0x00000000#32 ∧ (coreStep t).mem = s.mem := by
  have hbusy : (s.accept sch op).advance.block.status.busy = true := by simp [Status.accepted]
  have hfails : check (s.accept sch op).advance.platform.span (s.accept sch op).advance.block = some e := by
    rw [State.advance_platform, State.accept_platform, State.advance_block, State.accept_block]
    exact hc
  refine ⟨_, exec_start_of_idle hsel hb, hbusy, ?_⟩
  rw [coreStep_of_error hbusy hfails]
  refine ⟨?_, rfl, by simp⟩
  rw [State.complete_block, State.advance_block, State.accept_block]
  rfl

/-- Settles O18: OP 0b11 fails the check as BAD_OP. -/
theorem reservedOpCompletesWithBadOp : Obligations.ReservedOpCompletesWithBadOp := by
  unfold Obligations.ReservedOpCompletesWithBadOp
  intro ign sch s hb
  exact start_fails (i := .reservedOp ign sch) rfl hb (check_of_reservedOp _ rfl)

/-- Each of the six rows of R150 has a defined OP and a reserved SCHEME. -/
theorem startSelectors_of_mem_reservedSchemeRows {ign : BitVec 27} {i : Instr}
    (h : i ∈ Spec.reservedSchemeRows ign) :
    ∃ sch op, Spec.startSelectors i = some (sch, op) ∧ opOf op ≠ none ∧ schemeOf sch = none := by
  simp only [Spec.reservedSchemeRows, List.mem_cons, List.not_mem_nil, or_false] at h
  rcases h with rfl | rfl | rfl | rfl | rfl | rfl <;> exact ⟨_, _, rfl, by decide, by decide⟩

/-- Settles O19: a reserved SCHEME with a defined OP fails the check as BAD_SCHEME. -/
theorem reservedSchemeCompletesWithBadScheme : Obligations.ReservedSchemeCompletesWithBadScheme := by
  unfold Obligations.ReservedSchemeCompletesWithBadScheme
  intro ign i s hi hb
  obtain ⟨sch, op, hsel, hop, hsch⟩ := startSelectors_of_mem_reservedSchemeRows hi
  exact start_fails hsel hb (check_of_reservedScheme _ hop hsch)

/-! ### An accepted command that passes its check (R143 to R148) -/

/-- The range passes its part of the check (R204), and every byte of it is admitted (R52). -/
def Usable (p : Platform) (r : Range) : Prop := ¬ BadRange p.span r ∧ p.Admits r

theorem usable_of_clear {p : Platform} {r : Range} (hlim : r.base + r.size ≤ 2 ^ 32)
    (hspan : ¬ Spec.Shares r.base r.size p.regBase.val 0x20) (hok : p.Admits r) : Usable p r := by
  refine ⟨?_, hok⟩
  rintro ⟨-, hpast | hmeet⟩
  · exact absurd hlim (Nat.not_le.2 hpast)
  · exact hspan ((shares_iff_meets r p.span).2 hmeet)

theorem usable_of_empty {p : Platform} {r : Range} (h : r.size = 0) : Usable p r :=
  ⟨fun hbad => absurd (h ▸ hbad.1) (Nat.not_lt_zero 0), Platform.admits_of_empty h⟩

/-- What the state `t` of an accepted command comes to with the core's step: the bytes `bs` at the DST_ADDR that `s`
held, every other byte of memory as in `s`, STATUS DONE alone, BYTE_COUNT their number, the operands as in `s`. -/
structure Delivers (s t : State) (bs : List Byte) : Prop where
  /-- Every part of the destination reads as that part of `bs`. -/
  part : ∀ o k, o + k ≤ bs.length →
    (coreStep t).mem.readBytes (s.block.dstAddr.toNat + o) k = (bs.drop o).take k
  outside : ∀ a, ¬ (Range.mk s.block.dstAddr.toNat bs.length).Contains a →
    (coreStep t).mem.read a = s.mem.read a
  status : (coreStep t).block.value .status = 0x00000002#32
  byteCount : (coreStep t).block.byteCount.toNat = bs.length
  operands : ∀ r ∈ Spec.writable, (coreStep t).block.value r = s.block.value r

/-- A part of the bytes read is read at that part's place. -/
theorem Memory.readBytes_part (m : Memory) (a : Nat) {o k n : Nat} (h : o + k ≤ n) :
    m.readBytes (a + o) k = ((m.readBytes a n).drop o).take k := by
  refine List.ext_getElem (by simp; omega) fun i _ _ => ?_
  simp [Memory.readBytes, Nat.add_assoc]

/-- The writable registers keep their words where the operands stay (R74). -/
theorem value_eq_of_sameOperands {b c : Block} (h : Spec.SameOperands b c) {r : Reg} (hr : r ∈ Spec.writable) :
    c.value r = b.value r := by
  obtain ⟨-, -, hcount, hcolor, hsrc, hdst, hcap⟩ := h
  cases r
  case ctrl | status | byteCount => simp [Spec.writable] at hr
  case color => simp [Block.value, Block.colorValue, hcolor]
  all_goals simp [Block.value, *]

/-- An accepted command that passes its check over admitted ranges delivers its body (O22, O23). -/
theorem accept_delivers {s : State} {sch op : BitVec 2} (hm : s.mem.wf)
    (hc : check s.platform.span (s.block.withSelectors sch op) = none)
    (hsrc : s.platform.Admits (s.block.withSelectors sch op).srcRange)
    (hdst : s.platform.Admits (s.block.withSelectors sch op).dstRange) :
    Delivers s (s.accept sch op).advance (body (s.block.withSelectors sch op) s.mem) := by
  generalize ht : (s.accept sch op).advance = t
  have hmem : t.mem = s.mem := by simp [← ht]
  have hplatform : t.platform = s.platform := by simp [← ht]
  have hblock : t.block = s.block.accepted sch op := by
    rw [← ht, State.advance_block, State.accept_block_eq_accepted]
  have hbusy : t.block.status.busy = true := by rw [hblock]; rfl
  have hrange : t.block.dstRange = ⟨s.block.dstAddr.toNat, (body (s.block.withSelectors sch op) s.mem).length⟩ := by
    rw [body_length, hblock, show s.block.dstAddr = (s.block.withSelectors sch op).dstAddr from rfl,
      ← Block.dstRange_base]
    rfl
  obtain ⟨hstatus, hcount, hbytes⟩ := successfulCompletion t (hmem ▸ hm) hbusy (by rw [hplatform, hblock]; exact hc)
    (by rw [hplatform, hblock]; exact hsrc) (by rw [hplatform, hblock]; exact hdst)
  rw [hrange] at hcount hbytes
  have hwhole : (coreStep t).mem.readBytes s.block.dstAddr.toNat (body (s.block.withSelectors sch op) s.mem).length =
      body (s.block.withSelectors sch op) s.mem := by
    rw [hbytes, hmem, hblock]
    rfl
  refine ⟨fun o k h => ?_, fun a ha => ?_, ?_, hcount, fun r hr => ?_⟩
  · rw [Memory.readBytes_part _ _ h, hwhole]
  · rw [coreStep_read_outside (hmem ▸ hm) (hrange ▸ ha), hmem]
  · rw [Block.value, hstatus, hblock]
    exact Status.word_completed_none Status.accepted
  · rw [value_eq_of_sameOperands (coreStep_sameOperands t) hr, hblock, s.block.value_accepted sch op hr]

/-- A command over usable ranges that fit and do not overlap is accepted while idle and delivers its body. -/
theorem start_delivers {i : Instr} {o : Op} {sch : Scheme} {s : State}
    (hsel : Spec.startSelectors i = some (sch.code, o.code)) (hm : s.mem.wf) (hb : s.block.status.busy = false)
    (hdst : Usable s.platform ⟨s.block.dstAddr.toNat, nbytes o sch s.block.count⟩)
    (hsrc : Usable s.platform ⟨s.block.srcAddr.toNat, srcbytes o s.block.count⟩)
    (hcap : nbytes o sch s.block.count ≤ s.block.dstCap.toNat)
    (hdisjoint : ¬ Spec.Shares s.block.srcAddr.toNat (srcbytes o s.block.count) s.block.dstAddr.toNat
      (nbytes o sch s.block.count)) :
    ∃ t, exec i s = .next t ∧ Delivers s t (body (s.block.withSelectors sch.code o.code) s.mem) := by
  obtain ⟨hdstOK, hdstAdm⟩ := hdst
  obtain ⟨hsrcOK, hsrcAdm⟩ := hsrc
  have hcmd : (s.block.withSelectors sch.code o.code).command = some (o, sch) := Block.command_of_codes rfl rfl
  have hdstRange : (s.block.withSelectors sch.code o.code).dstRange =
      ⟨s.block.dstAddr.toNat, nbytes o sch s.block.count⟩ := Block.dstRange_of_command hcmd
  have hsrcRange : (s.block.withSelectors sch.code o.code).srcRange =
      ⟨s.block.srcAddr.toNat, srcbytes o s.block.count⟩ := Block.srcRange_of_command hcmd
  have hc : check s.platform.span (s.block.withSelectors sch.code o.code) = none :=
    check_eq_none hcmd (hdstRange ▸ hdstOK) (hsrcRange ▸ hsrcOK) (hdstRange ▸ hcap)
      (by rw [hsrcRange, hdstRange, ← shares_iff_meets]; exact hdisjoint)
  exact ⟨_, exec_start_of_idle hsel hb, accept_delivers hm hc (hsrcRange ▸ hsrcAdm) (hdstRange ▸ hdstAdm)⟩

theorem not_shares_empty (x y k : Nat) : ¬ Spec.Shares x 0 y k := by
  rintro ⟨a, h1, h2, -⟩
  omega

/-- Settles O15: ENCODE's body is the encoding of COLOR, and its source is empty. -/
theorem encodeWritesOneSlot : Obligations.EncodeWritesOneSlot := by
  unfold Obligations.EncodeWritesOneSlot
  intro sch ign s hm hb hlim hspan hcap hok
  rw [slotBytes_eq] at *
  obtain ⟨t, hexec, hdelivers⟩ := start_delivers (startSelectors_encodeInstr sch ign) hm hb
    (usable_of_clear hlim hspan hok) (usable_of_empty rfl) hcap (not_shares_empty _ _ _)
  have hbody : body (s.block.withSelectors sch.code Op.encode.code) s.mem = encodeColor sch s.block.color :=
    body_of_encode (Block.command_of_codes rfl rfl) s.mem
  rw [hbody] at hdelivers
  have hlen : (encodeColor sch s.block.color).length = sch.bytesPerColor := encodeColor_length sch s.block.color
  obtain ⟨hpart, houtside, hstatus, hcount, hops⟩ := hdelivers
  refine ⟨t, hexec, ?_, hlen ▸ houtside, hstatus, hlen ▸ hcount, hops⟩
  simpa [← hlen] using hpart 0 _ (Nat.le_of_eq (Nat.zero_add _))

/-- A delivered frame of the colors `f 0, f 1, ...`: slot `i` is the encoding of color `i` (R122), and the frame is
`n` slots long (R124). -/
theorem Delivers.slots_of_frame {s t : State} {sch : Scheme} {f : Nat → Color} {n : Nat}
    (h : Delivers s t (frame sch ((List.range n).map f) n)) :
    (∀ i < n, (coreStep t).mem.readBytes (s.block.dstAddr.toNat + sch.bytesPerColor * i) sch.bytesPerColor =
      encodeColor sch (f i)) ∧
    (∀ a, ¬ (Range.mk s.block.dstAddr.toNat (sch.bytesPerColor * n)).Contains a →
      (coreStep t).mem.read a = s.mem.read a) ∧
    (coreStep t).block.value .status = 0x00000002#32 ∧
    (coreStep t).block.byteCount.toNat = sch.bytesPerColor * n ∧
    (∀ r ∈ Spec.writable, (coreStep t).block.value r = s.block.value r) := by
  obtain ⟨hpart, houtside, hstatus, hcount, hops⟩ := h
  have hcolors : ((List.range n).map f).length = n := by simp
  have hlen : (frame sch ((List.range n).map f) n).length = sch.bytesPerColor * n := by
    rw [frame_length sch hcolors.ge, slotOffset, Nat.mul_comm]
  refine ⟨fun i hi => ?_, hlen ▸ houtside, hstatus, hlen ▸ hcount, hops⟩
  have hfits : slotOffset sch i + sch.bytesPerColor ≤ (frame sch ((List.range n).map f) n).length := by
    rw [hlen, slotOffset, ← Nat.succ_mul, Nat.mul_comm]
    exact Nat.mul_le_mul_left _ hi
  rw [Nat.mul_comm]
  calc (coreStep t).mem.readBytes (s.block.dstAddr.toNat + slotOffset sch i) sch.bytesPerColor
      = ((frame sch ((List.range n).map f) n).drop (slotOffset sch i)).take sch.bytesPerColor := hpart _ _ hfits
    _ = encodeColor sch (((List.range n).map f)[i]'(hcolors.symm ▸ hi)) :=
      frameSliceLaw sch _ n i (hcolors.symm ▸ hi) hi hcolors.ge
    _ = encodeColor sch (f i) := by simp

/-- Settles O16: BUILDFRAME's body is the frame of the source colors. -/
theorem buildframeWritesEverySlot : Obligations.BuildframeWritesEverySlot := by
  unfold Obligations.BuildframeWritesEverySlot
  rintro sch ign s n nb hm hb rfl rfl hdlim hdspan hslim hsspan hcap hdisjoint hdok hsok
  rw [slotBytes_eq] at *
  obtain ⟨t, hexec, hdelivers⟩ := start_delivers (startSelectors_buildframeInstr sch ign) hm hb
    (usable_of_clear hdlim hdspan hdok) (usable_of_clear hslim hsspan hsok) hcap hdisjoint
  rw [body_of_buildFrame (Block.command_of_codes rfl rfl)] at hdelivers
  exact ⟨t, hexec, hdelivers.slots_of_frame⟩

/-- Settles O17: BUILDSINGLE's body is the frame of copies of COLOR (O35), and its source is empty. -/
theorem buildsingleFillsEverySlot : Obligations.BuildsingleFillsEverySlot := by
  unfold Obligations.BuildsingleFillsEverySlot
  rintro sch ign s n nb hm hb rfl rfl hlim hspan hcap hok
  rw [slotBytes_eq] at *
  obtain ⟨t, hexec, hdelivers⟩ := start_delivers (startSelectors_buildsingleInstr sch ign) hm hb
    (usable_of_clear hlim hspan hok) (usable_of_empty rfl) hcap (not_shares_empty _ _ _)
  rw [body_of_buildSingle (Block.command_of_codes rfl rfl)] at hdelivers
  exact ⟨t, hexec, hdelivers.slots_of_frame⟩

/-! ### The line (R151, R186, R192) -/

theorem execBus_line {a : BusAccess} {s t : State} (h : execBus a s = .next t) : t.line = s.line := by
  rcases execBus_cases h with rfl | ⟨-, rfl⟩ | ⟨-, sch, op, rfl⟩ | ⟨-, sch, op, rfl⟩ | ⟨-, r, d, rfl⟩ |
    ⟨r, v, rfl⟩ <;> simp [State.badAccess]

/-- A transfer only appends to the line. -/
theorem State.transmit_line (s : State) (a k : Nat) (mode : XmitMode) :
    ∃ e, (s.transmit a k mode).line = s.line ++ e := by
  rcases State.transmit_cases s a k mode with h | ⟨e, o, -, h, -⟩ <;> rw [h]
  · exact ⟨[], by simp⟩
  · exact ⟨[e], rfl⟩

/-- A host statement leaves the line, or is an `xmit` or a `settle` and appends to it. -/
theorem execStmt_line_cases {x : Stmt} {s t : State} (h : execStmt x s = .next t) :
    t.line = s.line ∨ (x.Drives ∧ ∃ e, t.line = s.line ++ e) := by
  rcases execStmt_cases h with ⟨a, -, hbus⟩ | ⟨a, b, -, rfl⟩ | ⟨a, rfl⟩ | rfl | ⟨n, v, w, rfl⟩ | ⟨n, rfl⟩ |
    ⟨a, k, mode, hx, -, rfl⟩ | rfl | rfl | ⟨hx, rfl⟩
  case inl => exact Or.inl (execBus_line hbus)
  case inr.inr.inr.inr.inr.inr.inl =>
    refine Or.inr ⟨Or.inr ⟨a, k, mode, hx⟩, ?_⟩
    obtain ⟨e, he⟩ :=
      (s.faultIf (s.TransmitHazard a.toNat k) .transmitWhileBusy).transmit_line a.toNat k mode
    exact ⟨e, by simpa using he⟩
  case inr.inr.inr.inr.inr.inr.inr.inr.inr => exact Or.inr ⟨Or.inl hx, _, rfl⟩
  all_goals exact Or.inl (by simp [State.badAccess, State.hostWrite])

/-- A turn leaves the line, or is a glitch that appends itself, or is the host's at an `xmit` or a `settle`. -/
theorem turnStep_line_cases {u : Turn} {s t : State} (h : turnStep u s = .next t) :
    t.line = s.line ∨ (u = .glitch ∧ t.line = s.line ++ [.glitch]) ∨
    (u = .host ∧ (∃ line, s.program[s.hpc]? = some line ∧ line.stmt.Drives) ∧ ∃ e, t.line = s.line ++ e) := by
  cases u with
  | host =>
    rcases hostStep_cases h with rfl | ⟨line, hline, hstmt⟩
    · exact Or.inl rfl
    · rcases execStmt_line_cases hstmt with hsame | ⟨hdrives, hgrown⟩
      · exact Or.inl hsame
      · exact Or.inr (Or.inr ⟨rfl, ⟨line, hline, hdrives⟩, hgrown⟩)
  | core =>
    cases h
    exact Or.inl (coreStep_line s)
  | glitch =>
    cases h
    exact Or.inr (Or.inl ⟨rfl, rfl⟩)
  | transport k | reset | setClock f =>
    cases h
    exact Or.inl rfl

/-- Settles O57: the step is a turn's, and taking the turn leaves the line and the host's statement. -/
theorem onlyTheHostDrivesTheLine : Obligations.OnlyTheHostDrivesTheLine := by
  unfold Obligations.OnlyTheHostDrivesTheLine
  intro s t h
  obtain ⟨-, hturn⟩ := step_next h
  have hcases := turnStep_line_cases hturn
  simp only [State.takeTurn_line, State.takeTurn_program, State.takeTurn_hpc] at hcases
  rcases hcases with hsame | ⟨hglitch, hline⟩ | ⟨hhost, hstmt, e, hline⟩
  · exact ⟨[], by simp [hsame], fun hne => absurd rfl hne⟩
  · exact ⟨_, hline, fun _ => Or.inl ⟨hglitch, rfl⟩⟩
  · exact ⟨e, hline, fun _ => Or.inr ⟨hhost, hstmt⟩⟩

/-! ### Fair runs (R142, R245) -/

/-- The core's step ends the BUSY window, or records a fault (R52, R142). -/
theorem coreStep_idle_or_faulted (s : State) :
    (coreStep s).block.status.busy = false ∨ (coreStep s).faults ≠ [] := by
  rcases coreStep_cases s with ⟨hidle, h⟩ | ⟨e, -, -, h⟩ | ⟨-, -, -, h⟩ | ⟨-, -, -, -, h⟩ <;> rw [h]
  · exact Or.inl hidle
  · exact Or.inl rfl
  · exact Or.inr (ModelFault.insert_ne_nil _ _)
  · exact Or.inl rfl

/-- On a run no state has a recorded fault, since none stops (R213). -/
theorem IsRun.faults_eq_nil {run : Nat → State} (hr : IsRun run) (n : Nat) : (run n).faults = [] :=
  (step_next (hr n)).1

/-- Settles O59: where fairness brings the core's turn, the state after it is idle, as it cannot have recorded a
fault. -/
theorem fairRunsLeaveBusy : Obligations.FairRunsLeaveBusy := by
  unfold Obligations.FairRunsLeaveBusy
  intro run hr hfair n
  obtain ⟨m, hm, hidle | hcore⟩ := hfair n
  · exact ⟨m, hm, hidle⟩
  · obtain ⟨-, hturn⟩ := step_next (hr m)
    rw [hcore] at hturn
    have hnext : coreStep (run m).takeTurn = run (m + 1) := Host.Outcome.next.inj hturn
    have hdone := coreStep_idle_or_faulted (run m).takeTurn
    rw [hnext] at hdone
    exact ⟨m + 1, by omega, hdone.resolve_right fun h => h (hr.faults_eq_nil (m + 1))⟩

end Sys2Proof.Machine

namespace Sys2Proof.Machine

/-! ### Register reads and writes (R160 to R163, R166) -/

theorem Vars.get?_set_self (vs : Vars) (v : Var) (w : Word) : (vs.set v w).get? v = some w :=
  (Vars.get?_set vs v w v).trans (if_pos rfl)

theorem Vars.get?_set_of_ne (vs : Vars) (w : Word) {u v : Var} (h : u ≠ v) :
    (vs.set v w).get? u = vs.get? u :=
  (Vars.get?_set vs v w u).trans (if_neg h)

/-- Settles O8: RD sets its variable alone. -/
theorem rdReadsTheRegister : Obligations.RdReadsTheRegister := by
  unfold Obligations.RdReadsTheRegister
  intro r v s
  exact ⟨_, rfl, Vars.get?_set_self s.vars v _, fun u => Vars.get?_set_of_ne s.vars _, rfl, rfl, rfl,
    s.untouched_setVar_advance v _⟩

/-- A mask of the low `n` bits keeps those bits alone. -/
theorem getLsbD_and_lowMask {m : Word} {n : Nat} (hm : m.toNat = 2 ^ n - 1) (d : Word) (i : Nat) :
    (d &&& m).getLsbD i = (d.getLsbD i && decide (i < n)) := by
  rw [BitVec.getLsbD_and, ← BitVec.testBit_toNat m, hm, Nat.testBit_two_pow_sub_one]

/-- A word stored into LED_COUNT reads back without its upper sixteen bits (R26, R161). -/
theorem ledCount_word_of_store (d : Word) : (d.setWidth 16).setWidth 32 = d &&& 0x0000FFFF#32 := by
  apply BitVec.eq_of_getLsbD_eq
  intro i hi
  rw [getLsbD_and_lowMask (n := 16) rfl]
  simp [hi, Bool.and_comm]

/-- A word stored into COLOR reads back without its upper eight bits (R27, R161). -/
theorem colorValue_of_store {b : Block} {d : Word} (h : b.color = colorOfWord d) :
    b.colorValue = d &&& 0x00FFFFFF#32 := by
  apply BitVec.eq_of_getLsbD_eq
  intro i _
  rw [Block.getLsbD_colorValue, h, getLsbD_and_lowMask (n := 24) rfl]
  simp only [colorOfWord, BitVec.getLsbD_extractLsb']
  by_cases h8 : i < 8
  · simp [h8, show i < 24 by omega]
  · by_cases h16 : i < 16
    · simp [h8, h16, show i - 8 < 8 by omega, show 8 + (i - 8) = i by omega, show i < 24 by omega]
    · simp [h8, h16, show i - 16 < 8 ↔ i < 24 by omega, show 16 + (i - 16) = i by omega, Bool.and_comm]

/-- A stored word reads back under the register's WMASK (R161). -/
theorem Block.value_store_self (b : Block) (d : Word) {r : Reg} (hr : r ∈ Spec.writable) :
    (b.store d r).value r = d &&& Spec.wmask r := by
  cases r
  case ctrl | status | byteCount => simp [Spec.writable] at hr
  case ledCount => exact ledCount_word_of_store d
  case color => exact colorValue_of_store rfl
  case srcAddr | dstAddr | dstCap => exact BitVec.and_allOnes.symm

/-- Storing into a register leaves the words of the others (R161). -/
theorem Block.value_store_of_ne (b : Block) (d : Word) {q r : Reg} (h : q ≠ r) :
    (b.store d r).value q = b.value q := by
  cases r <;> cases q
  case ledCount.ledCount | color.color | srcAddr.srcAddr | dstAddr.dstAddr | dstCap.dstCap => exact absurd rfl h
  all_goals rfl

/-- Settles O9: the idle write stores into its register alone. -/
theorem wrStoresTheMaskedValue : Obligations.WrStoresTheMaskedValue := by
  unfold Obligations.WrStoresTheMaskedValue
  intro r d s hr hb
  have hctrl : r ≠ .ctrl := by
    rintro rfl
    simp [Spec.writable] at hr
  exact ⟨_, exec_wr_of_idle hb hctrl d, s.block.value_store_self d hr, fun q => s.block.value_store_of_ne d, rfl, rfl,
    rfl, s.untouched_withBlock_advance _⟩

/-- The read-only registers keep what they hold (R166). -/
theorem Block.store_readOnly (b : Block) (d : Word) {r : Reg} (hr : r ∈ [Reg.status, Reg.byteCount]) :
    b.store d r = b := by
  fin_cases hr <;> rfl

/-- Settles O10: the idle write stores nothing. -/
theorem wrToReadOnlyChangesNothing : Obligations.WrToReadOnlyChangesNothing := by
  unfold Obligations.WrToReadOnlyChangesNothing
  intro r d s hr hb
  have hctrl : r ≠ .ctrl := by
    rintro rfl
    simp at hr
  exact ⟨_, exec_wr_of_idle hb hctrl d, s.block.store_readOnly d hr, rfl, rfl, rfl, s.untouched_withBlock_advance _⟩

/-- Settles O11: every write while BUSY is `ignoreWrite`. -/
theorem writeWhileBusySetsIgnored : Obligations.WriteWhileBusySetsIgnored := by
  unfold Obligations.WriteWhileBusySetsIgnored
  intro i s hi hb
  exact ⟨_, exec_of_busy hi hb, rfl, hb, rfl, rfl, rfl, sameOperands_refl s.block, rfl, rfl, rfl, rfl,
    s.untouched_withBlock_advance _⟩

/-- Setting the selectors leaves every register but CTRL (R163). -/
theorem Block.value_withSelectors (b : Block) (sch op : BitVec 2) {r : Reg} (h : r ≠ .ctrl) :
    (b.withSelectors sch op).value r = b.value r := by
  cases r
  case ctrl => exact absurd rfl h
  all_goals rfl

/-- Settles O12: the idle CTRLSET sets the selectors alone. -/
theorem ctrlsetSetsTheSelectors : Obligations.CtrlsetSetsTheSelectors := by
  unfold Obligations.CtrlsetSetsTheSelectors
  intro ign sch op s hb
  exact ⟨_, exec_ctrlset_of_idle hb ign sch op, rfl, rfl, fun r => s.block.value_withSelectors sch op, rfl, rfl, rfl,
    rfl, s.untouched_withBlock_advance _⟩

/-! ### Host memory statements outside the register span (R167, R240 to R243) -/

theorem execMwr_of_outside {a : Word} {s : State} (h : ¬ s.platform.span.Contains a.toNat) (b : Byte) :
    execMwr a b s = .next (s.hostWrite a.toNat b).advance :=
  if_neg h

/-- Settles O41: the write is `hostWrite`, whose faults are the hazards of R240 to R242. -/
theorem hostWriteAndItsHazards : Obligations.HostWriteAndItsHazards := by
  unfold Obligations.HostWriteAndItsHazards
  intro a b s hm hout
  refine ⟨_, execMwr_of_outside hout b, ?_, fun x hx => ?_, s.mem_writeHazards_iff a.toNat, ?_⟩
  · exact (Memory.read_write hm _ b _).trans (if_pos rfl)
  · exact (Memory.read_write hm _ b x).trans (if_neg hx)
  · simp [State.hostWrite]

/-- What R243 lets a host read of byte `a` give: the byte that is there, or, where a command that passes its check
runs over it, the byte that the command writes there (log 12). -/
def OldOrNew (s : State) (a : Nat) (x : Byte) : Prop :=
  x = s.mem.read a ∨
    (s.block.status.busy = true ∧ s.block.dstRange.Contains a ∧ check s.platform.span s.block = none ∧
      some x = (body s.block s.mem)[a - s.block.dstAddr.toNat]?)

/-- The new value of a running command's destination byte is the body's, or the old one where the command fails its
check (log 12). -/
theorem State.newByte_oldOrNew {s : State} {a : Nat} (hb : s.block.status.busy = true)
    (ha : s.block.dstRange.Contains a) : OldOrNew s a (s.newByte a) := by
  by_cases hc : check s.platform.span s.block = none
  · have hlt : a - s.block.dstAddr.toNat < (body s.block s.mem).length := by
      obtain ⟨hlow, hhigh⟩ := ha
      rw [Block.dstRange_base] at hlow hhigh
      rw [body_length]
      omega
    refine Or.inr ⟨hb, ha, hc, ?_⟩
    rw [State.newByte, State.pending, if_pos hc, List.getElem?_eq_getElem hlt, Option.getD_some]
  · refine Or.inl ?_
    rw [State.newByte, State.pending, if_neg hc]
    rfl

/-- An `mrd` outside the span sets its variable to an old or new byte, and draws where R243 draws. -/
theorem execMrd_of_outside {a : Word} {s : State} (h : ¬ s.platform.span.Contains a.toNat) (v : Var) :
    ∃ x, OldOrNew s a.toNat x ∧
      execMrd a v s = .next ((s.withDraws
        (s.draws + if s.block.status.busy = true ∧ s.block.dstRange.Contains a.toNat then 1 else 0)).setVar v
          (x.setWidth 32)).advance := by
  rw [execMrd, if_neg h]
  by_cases hdraw : s.block.status.busy = true ∧ s.block.dstRange.Contains a.toNat
  · rw [if_pos hdraw, if_pos hdraw]
    refine ⟨_, ?_, rfl⟩
    split_ifs
    · exact State.newByte_oldOrNew hdraw.1 hdraw.2
    · exact Or.inl rfl
  · rw [if_neg hdraw, if_neg hdraw]
    exact ⟨_, Or.inl rfl, rfl⟩

/-- Settles O42: the read sets its variable and the draw counter alone. -/
theorem hostReadIsOldOrNew : Obligations.HostReadIsOldOrNew := by
  unfold Obligations.HostReadIsOldOrNew
  intro a v s hout
  obtain ⟨x, hx, hexec⟩ := execMrd_of_outside hout v
  exact ⟨_, x, hexec, Vars.get?_set_self s.vars v _, hx, fun u => Vars.get?_set_of_ne s.vars _, rfl, rfl, rfl, rfl,
    rfl, rfl, rfl, rfl, rfl, rfl, rfl⟩

/-! ### Branches (R84, R168) -/

section Branch

variable {v : Var} {l : Label} {s : State} {w : Word}

theorem branch_of_defined {n : Nat} (hv : s.vars.get? v = some w) (hl : labelIndex l s.program = some n)
    (mask : Word) (taken : Word → Bool) :
    branch v mask l taken s = .next (s.withHpc (if taken (w &&& mask) then n else s.hpc + 1)) := by
  rw [apply_ite s.withHpc]
  simp only [branch, hv, hl]
  rfl

theorem branch_of_unwritten (hv : s.vars.get? v = none) (mask : Word) (taken : Word → Bool) :
    branch v mask l taken s = .refused (.unwrittenVariable v) := by
  simp only [branch, hv]

theorem branch_of_undefined (hv : s.vars.get? v = some w) (hl : labelIndex l s.program = none) (mask : Word)
    (taken : Word → Bool) : branch v mask l taken s = .refused (.undefinedLabel l) := by
  simp only [branch, hv, hl]

end Branch

/-- A label's index is that of a line that carries it (R168). -/
theorem line_of_labelIndex {l : Label} {p : Program} {n : Nat} (h : labelIndex l p = some n) :
    ∃ line, p[n]? = some line ∧ line.label = some l := by
  obtain ⟨hn, hlabel, -⟩ := List.findIdx?_eq_some_iff_getElem.1 h
  exact ⟨p[n], List.getElem?_eq_getElem hn, of_decide_eq_true hlabel⟩

theorem labelIndex_eq_none {l : Label} {p : Program} (h : ∀ line ∈ p, line.label ≠ some l) :
    labelIndex l p = none :=
  List.findIdx?_eq_none_iff.2 fun line hline => decide_eq_false (h line hline)

/-- Settles O43: `bnz` and `bz` are `branch` on `≠ 0` and `= 0`. -/
theorem branchesFollowTheMask : Obligations.BranchesFollowTheMask := by
  unfold Obligations.BranchesFollowTheMask
  intro v mask l s
  refine ⟨fun w n hv hl => ⟨?_, ?_, line_of_labelIndex hl⟩,
    fun hv => ⟨branch_of_unwritten hv mask _, branch_of_unwritten hv mask _⟩,
    fun w hv hl => ⟨branch_of_undefined hv (labelIndex_eq_none hl) mask _,
      branch_of_undefined hv (labelIndex_eq_none hl) mask _⟩⟩
  · simp [execBnz, branch_of_defined hv hl]
  · simp [execBz, branch_of_defined hv hl]

/-! ### Statements that leave the registers (R167, R168, R180, R184) -/

/-- Settles O44: of the things that a host statement can do, only a bus statement's writes registers. -/
theorem otherStatementsLeaveTheBlock : Obligations.OtherStatementsLeaveTheBlock := by
  unfold Obligations.OtherStatementsLeaveTheBlock
  intro x s t hx h
  rcases execStmt_cases h with ⟨a, hbus, -⟩ | ⟨a, b, -, rfl⟩ | ⟨a, rfl⟩ | rfl | ⟨n, v, w, rfl⟩ | ⟨n, rfl⟩ |
    ⟨a, k, mode, -, -, rfl⟩ | rfl | rfl | ⟨-, rfl⟩
  case inl => exact absurd hbus (hx a)
  all_goals simp

/-! ### The wire of a frame (R113, R181, R191) -/

/-- The wire group that carries one source bit (R113). -/
def wireGroup : Scheme → Bool → List Bool
  | .threeBit, x => [true, x, false]
  | .fourBit, x => [true, x, x, false]

/-- The wire of a channel's encoding carries the channel's bits, one group each (R78, R79). -/
theorem wire_chan (sch : Scheme) (v : Byte) : wire (chan sch v) = (bitsOf v).flatMap (wireGroup sch) := by
  rw [bitsOf, List.flatMap_map]
  cases sch with
  | threeBit => exact wire_chan3 v
  | fourBit => exact wire_chan4 v

/-- The logical bits of groups are the bits they carry (R191). -/
theorem logicalBits_wireGroups (sch : Scheme) (bits : List Bool) :
    logicalBits sch (bits.flatMap (wireGroup sch)) = some bits := by
  cases sch with
  | threeBit =>
    show cut3 (bits.flatMap fun x => [true, x, false]) = some bits
    simpa [cut3] using cut3_groups bits []
  | fourBit =>
    show cut4 (bits.flatMap fun x => [true, x, x, false]) = some bits
    simpa [cut4] using cut4_groups bits []

/-- Eight bits put together give their byte back (R191). -/
theorem byteOfBits_bitsOf (v : Byte) : byteOfBits (bitsOf v) = v := by
  apply BitVec.eq_of_getLsbD_eq
  intro i hi
  interval_cases i <;> simp [byteOfBits, bitsOf, List.range, List.range.loop]

/-- The logical bits of one slot are its color's: green, red, blue (R191). -/
theorem colorOfBits_grb (c : Color) : colorOfBits (bitsOf c.green ++ (bitsOf c.red ++ bitsOf c.blue)) = c := by
  have hgreen : (bitsOf c.green).drop 16 = [] := List.drop_of_length_le (by simp [bitsOf_length])
  have htake : ∀ v, (bitsOf v).take 8 = bitsOf v := fun v => List.take_of_length_le (bitsOf_length v).le
  simp [colorOfBits, List.drop_append, bitsOf_length, byteOfBits_bitsOf, hgreen, htake]

theorem logicalBits_wire_encodeColor (sch : Scheme) (c : Color) :
    (logicalBits sch (wire (encodeColor sch c))).map colorOfBits = some c := by
  have hgroups : wire (encodeColor sch c) =
      (bitsOf c.green ++ (bitsOf c.red ++ bitsOf c.blue)).flatMap (wireGroup sch) := by
    simp only [encodeColor_eq, wire_append, wire_chan, List.flatMap_append]
  rw [hgroups, logicalBits_wireGroups, Option.map_some, colorOfBits_grb]

theorem slotWireBits_eq (sch : Scheme) : slotWireBits sch = 8 * sch.bytesPerColor := by cases sch <;> rfl

/-- The wire of a frame carries color `i` in slot `i` (R122, R190, R191). -/
theorem slotColor_wire_frame (sch : Scheme) {colors : List Color} {i : Nat} (h : i < colors.length) :
    slotColor sch (wire (frame sch colors colors.length)) i = some colors[i] := by
  have hslot : ((wire (frame sch colors colors.length)).drop (i * slotWireBits sch)).take (slotWireBits sch) =
      wire (encodeColor sch colors[i]) := by
    rw [slotWireBits_eq, Nat.mul_left_comm, wire_drop, wire_take]
    exact congrArg wire (frameSliceLaw sch colors colors.length i h h le_rfl)
  have hlen : (wire (encodeColor sch colors[i])).length = slotWireBits sch := by
    rw [wire_length, encodeColor_length, slotWireBits_eq]
  rw [slotColor, hslot, if_pos hlen, logicalBits_wire_encodeColor]

/-! ### A sent frame on the strip (R180, R188 to R190) -/

/-- The strip's frame of one transfer that sends a frame of colors. -/
def sentFrame (sch : Scheme) (colors : List Color) (clock : Nat) : WireFrame :=
  ⟨wire (frame sch colors colors.length), [clock], false⟩

theorem sentFrame_length (sch : Scheme) (colors : List Color) :
    (wire (frame sch colors colors.length)).length = colors.length * slotWireBits sch := by
  rw [wire_length, frame_length sch le_rfl, slotWireBits_eq, slotOffset, Nat.mul_left_comm]

/-- After a sent frame at its scheme's clock and adequate timing, an LED that the frame reaches shows its slot's color,
and one behind it what it showed (R190; log 19). -/
theorem ledAfter_sentFrame {p : Platform} {sch : Scheme} {colors : List Color} (hne : colors ≠ [])
    (htiming : p.timingOK sch = true) (key i : Nat) (before : Color) :
    ledAfter p sch (sentFrame sch colors (p.fBit sch)) key i before = colors.getD i before := by
  have hpos : 0 < slotWireBits sch := by cases sch <;> decide
  have hlen := sentFrame_length sch colors
  have hbits : wire (frame sch colors colors.length) ≠ [] := by
    rw [← List.length_pos_iff, hlen]
    exact Nat.mul_pos (List.length_pos_iff.2 hne) hpos
  have hclock : ∀ c ∈ [p.fBit sch], p.ClockMatches sch c := by simp
  simp only [ledAfter, sentFrame, Bool.false_eq_true, if_false, hbits, hlen, Nat.mul_le_mul_right_iff hpos]
  rw [if_pos ⟨hclock, htiming⟩]
  by_cases h : i < colors.length
  · rw [if_neg (Nat.not_le.2 h), slotColor_wire_frame sch h, Option.getD_some, List.getD_eq_getElem _ _ h]
  · rw [if_pos (Nat.not_lt.1 h), List.getD_eq_default _ _ (Nat.not_lt.1 h)]

/-- The line carries nothing that a settle has not followed (R169). -/
theorem framesOf_current_of_settled {latch : Nat} {line : List LineEvent}
    (h : line = [] ∨ ∃ l d, line = l ++ [.settle d] ∧ latch < d) :
    (framesOf latch line).current = WireFrame.empty := by
  rcases h with rfl | ⟨l, d, rfl, hd⟩
  · rfl
  · exact framesOf_settle_current hd l

/-- A transfer on a settled line, and the settle behind it, add its frame to the settled ones (R189). -/
theorem framesOf_transfer_settle {latch d : Nat} {line : List LineEvent}
    (h : (framesOf latch line).current = WireFrame.empty) (hd : latch < d) (bits : List Bool) (clock : Nat) :
    (framesOf latch (line ++ [.transfer bits clock] ++ [.settle d])).settled =
      (framesOf latch line).settled ++ [⟨bits, [clock], false⟩] := by
  rw [framesOf] at h
  simp only [framesOf, List.append_assoc, framesFrom_append, h]
  simp [framesFrom, hd, WireFrame.empty]

theorem State.ledShows_of_settled {s : State} (h : s.LineSettled) (sch : Scheme) (i : Nat) (before : Color) :
    s.ledShows sch i before =
      ledAfterFrames s.platform sch i (framesOf s.platform.latch s.line).settled 0 before :=
  if_pos h

/-- A transfer of some bytes puts their wire string on the line in either mode (R181, R182). -/
theorem State.transmit_line_of_pos (s : State) (a : Nat) {k : Nat} (hk : k ≠ 0) (mode : XmitMode) :
    (s.transmit a k mode).line = s.line ++ [.transfer (wire (s.mem.readBytes a k)) s.bitClock] := by
  rw [State.transmit, if_neg hk]
  cases mode <;> rfl

/-- An `xmit` inside the address space and without the hazard of R239 is its transfer (R180). -/
theorem execXmit_of_clear {a : Word} {k : Nat} {s : State} (hlim : a.toNat + k ≤ Config.addrLimit)
    (hz : ¬ s.TransmitHazard a.toNat k) (mode : XmitMode) :
    execXmit a k mode s = .next (s.transmit a.toNat k mode).advance := by
  rw [execXmit, if_neg (Nat.not_lt.2 hlim), State.faultIf, if_neg hz]

/-- A settle with no transfer in flight, where the line is that of the settled state `s` and one sent frame: an LED
that the frame reaches then shows its slot's color, and one behind it what it showed in `s` (R169, R190; log 19). -/
theorem State.ledShows_settle_of_sentFrame {s u : State} {sch : Scheme} {colors : List Color} {d : Nat}
    (hs : s.LineSettled) (hne : colors ≠ []) (htiming : s.platform.timingOK sch = true)
    (hline : u.line = s.line ++ [.transfer (wire (frame sch colors colors.length)) (s.platform.fBit sch)])
    (hplatform : u.platform = s.platform) (howned : u.owned = []) (hd : s.platform.latch < d) (i : Nat)
    (before : Color) :
    (u.emit (.settle d)).advance.ledShows sch i before = colors.getD i (s.ledShows sch i before) := by
  have hsettled : (u.emit (.settle d)).advance.LineSettled :=
    ⟨howned, framesOf_settle_current (hplatform ▸ hd) u.line⟩
  rw [State.ledShows_of_settled hsettled, State.ledShows_of_settled hs, State.advance_line, State.emit_line,
    State.advance_platform, State.emit_platform, hplatform, hline, framesOf_transfer_settle hs.2 hd,
    ledAfterFrames_append]
  exact ledAfter_sentFrame hne htiming _ i _

/-- Settles O37: the transfer and the settle behind it put one more settled frame on the line, that of the colors. -/
theorem sentFrameIsShown : Obligations.SentFrameIsShown := by
  unfold Obligations.SentFrameIsShown
  intro sch colors a mode s before hfaults howned hline hz hclock htiming hne hlim hbytes
  have hsettled : s.LineSettled := ⟨howned, framesOf_current_of_settled hline⟩
  have hclear : ¬ s.TransmitHazard a.toNat (Spec.slotBytes sch * colors.length) := fun ⟨hb, hmeet⟩ =>
    hz ⟨hb, (shares_iff_meets ⟨a.toNat, _⟩ s.block.dstRange).2 hmeet⟩
  have hsize : Spec.slotBytes sch * colors.length ≠ 0 :=
    Nat.mul_ne_zero (by cases sch <;> decide) (mt List.length_eq_zero_iff.1 hne)
  refine ⟨_, execXmit_of_clear hlim hclear mode, by simpa using hfaults, fun u huline huplatform huowned =>
    ⟨_, rfl, ?_⟩⟩
  rw [State.advance_line, State.transmit_line_of_pos s a.toNat hsize, hbytes, hclock] at huline
  rw [State.advance_platform, State.transmit_platform] at huplatform
  have hlatch : s.platform.latch < u.platform.tSettle := huplatform ▸ u.platform.latch_lt_tSettle
  have hshows := State.ledShows_settle_of_sentFrame hsettled hne htiming huline huplatform huowned hlatch
  exact ⟨fun i h => (hshows i before).trans (List.getD_eq_getElem _ _ h),
    fun i h => (hshows i before).trans (List.getD_eq_default _ _ h)⟩

end Sys2Proof.Machine

namespace Sys2Proof.Machine

/-- Settles O36: slot `i` of the wire decodes to color `i`. -/
theorem wireCarriesTheColors : Obligations.WireCarriesTheColors := by
  unfold Obligations.WireCarriesTheColors
  exact fun sch _ _ h => slotColor_wire_frame sch h

/-! ### A transfer inside the address space (R180 to R184, R239) -/

/-- Everything that a transfer does: it puts its bytes on the line, and its range in flight where it is asynchronous;
where it has no bytes, neither (R181 to R184). -/
theorem State.transmit_eq (s : State) (a k : Nat) (mode : XmitMode) :
    s.transmit a k mode =
      (s.withLine (s.line ++ if k = 0 then [] else [.transfer (wire (s.mem.readBytes a k)) s.bitClock])).withOwned
        (s.owned ++ if k = 0 ∨ mode = .sync then [] else [⟨a, k⟩]) := by
  by_cases hk : k = 0
  · simp [State.transmit, hk, State.withLine, State.withOwned]
  · cases mode <;> simp [State.transmit, hk, State.emit, State.withLine, State.withOwned]

/-- An `xmit` inside the address space records its hazard and makes its transfer (R180, R239). -/
theorem execXmit_of_within {a : Word} {k : Nat} (h : a.toNat + k ≤ Config.addrLimit) (mode : XmitMode) (s : State) :
    execXmit a k mode s =
      .next ((s.faultIf (s.TransmitHazard a.toNat k) .transmitWhileBusy).transmit a.toNat k mode).advance :=
  if_neg (Nat.not_lt.2 h)

/-- The hazard of R239 by the bytes that are shared; sharing one needs `k > 0`. -/
theorem State.transmitHazard_iff (s : State) (a k : Nat) :
    s.TransmitHazard a k ↔ s.block.status.busy = true ∧ 0 < k ∧
      Spec.Shares a k s.block.dstRange.base s.block.dstRange.size := by
  have hshares := shares_iff_meets ⟨a, k⟩ s.block.dstRange
  exact and_congr_right fun _ => ⟨fun hmeet => ⟨hmeet.1, hshares.2 hmeet⟩, fun h => hshares.1 h.2⟩

/-- Settles O38: the hazard changes the faults alone, and the transfer the line and the ranges in flight. -/
theorem xmitEmitsAndOwns : Obligations.XmitEmitsAndOwns := by
  unfold Obligations.XmitEmitsAndOwns
  intro a k mode s hlim
  refine ⟨_, execXmit_of_within hlim mode s, ?_⟩
  rw [State.transmit_eq]
  refine ⟨by simp [wire], by simp, fun f => ?_, by simp⟩
  rw [← State.transmitHazard_iff]
  simp [ModelFault.mem_insertIf]

/-! ### Waiting at an `xwait` (R184) -/

/-- The host stands at an `xwait`. -/
def State.AtXwait (s : State) : Prop := ∃ line, s.program[s.hpc]? = some line ∧ line.stmt = .xwait

/-- The host stands in `t` where it stands in `s`, in the same program, and what is in flight in `t` was so in `s`. -/
def Waited (s t : State) : Prop := t.hpc = s.hpc ∧ t.program = s.program ∧ t.owned.Sublist s.owned

theorem Waited.refl (s : State) : Waited s s := ⟨rfl, rfl, List.Sublist.refl _⟩

theorem Waited.trans {s t u : State} (h : Waited s t) (g : Waited t u) : Waited s u := by
  obtain ⟨hhpc, hprogram, howned⟩ := h
  obtain ⟨ghpc, gprogram, gowned⟩ := g
  exact ⟨ghpc.trans hhpc, gprogram.trans hprogram, gowned.trans howned⟩

theorem State.AtXwait.of_waited {s t : State} (hx : s.AtXwait) (h : Waited s t) : t.AtXwait := by
  obtain ⟨hhpc, hprogram, -⟩ := h
  rwa [State.AtXwait, hhpc, hprogram]

/-- An `xwait` with a transfer in flight holds the host (R184). -/
theorem hostStep_of_held {s : State} (hx : s.AtXwait) (ho : s.owned ≠ []) : hostStep s = .next s := by
  obtain ⟨line, hline, hstmt⟩ := hx
  rw [hostStep_of_getElem? hline, hstmt]
  exact if_neg ho

/-- No turn moves a host that an `xwait` holds, or starts a transfer then. -/
theorem turnStep_waited {u : Turn} {s t : State} (hx : s.AtXwait) (ho : s.owned ≠ []) (h : turnStep u s = .next t) :
    Waited s t := by
  cases u with
  | host =>
    have hsame : s = t := Host.Outcome.next.inj ((hostStep_of_held hx ho).symm.trans h)
    exact hsame ▸ Waited.refl s
  | core =>
    cases h
    exact ⟨coreStep_hpc s, coreStep_program s, (coreStep_owned s).symm ▸ List.Sublist.refl _⟩
  | transport k =>
    cases h
    exact ⟨rfl, rfl, List.eraseIdx_sublist s.owned k⟩
  | reset | setClock f | glitch =>
    cases h
    exact ⟨rfl, rfl, List.Sublist.refl _⟩

theorem step_waited {s t : State} (hx : s.AtXwait) (ho : s.owned ≠ []) (h : step s = .next t) : Waited s t := by
  obtain ⟨-, hturn⟩ := step_next h
  have hwaited : Waited s s.takeTurn := ⟨by simp, by simp, by simp⟩
  exact hwaited.trans (turnStep_waited (hx.of_waited hwaited) (by simpa using ho) hturn)

/-- A completion leaves one transfer less in flight (R184). -/
theorem step_completes {s t : State} {k : Nat} (hk : k < s.owned.length) (hturn : s.nextTurn = .transport k)
    (h : step s = .next t) : t.owned.length < s.owned.length := by
  obtain ⟨-, hstep⟩ := step_next h
  rw [hturn] at hstep
  cases hstep
  have hlen := List.length_eraseIdx_add_one hk
  simp only [transportStep, State.withOwned_owned, State.takeTurn_owned]
  omega

/-- Up to any later point of a run the host still waits there, or has waited until no transfer was in flight. -/
theorem IsRun.drained_or_waited {run : Nat → State} (hr : IsRun run) {n : Nat} (hx : (run n).AtXwait) {m : Nat}
    (hm : n ≤ m) :
    (∃ i, n ≤ i ∧ (run i).owned = [] ∧ Waited (run n) (run i)) ∨ Waited (run n) (run m) := by
  induction m, hm using Nat.le_induction with
  | base => exact Or.inr (Waited.refl _)
  | succ m hm ih =>
    rcases ih with hdrained | hwaited
    · exact Or.inl hdrained
    · by_cases ho : (run m).owned = []
      · exact Or.inl ⟨m, hm, ho, hwaited⟩
      · exact Or.inr (hwaited.trans (step_waited (hx.of_waited hwaited) ho (hr m)))

/-- Fairness brings completions, each of which leaves one transfer less, and none is started meanwhile. -/
theorem TransportFair.drains {run : Nat → State} (hr : IsRun run) (hfair : TransportFair run) (n : Nat)
    (hx : (run n).AtXwait) : ∃ m, n ≤ m ∧ (run m).owned = [] ∧ Waited (run n) (run m) := by
  induction hlen : (run n).owned.length using Nat.strong_induction_on generalizing n with
  | _ len ih =>
    obtain ⟨m, hm, hcompletion⟩ := TransportFair.completion hr hfair n
    rcases hr.drained_or_waited hx hm with hdrained | hwaited
    · exact hdrained
    rcases hcompletion with ho | ⟨k, hk, hturn⟩
    · exact ⟨m, hm, ho, hwaited⟩
    have hne : (run m).owned ≠ [] := List.ne_nil_of_length_pos (Nat.zero_lt_of_lt hk)
    have hnext : Waited (run n) (run (m + 1)) :=
      hwaited.trans (step_waited (hx.of_waited hwaited) hne (hr m))
    obtain ⟨-, -, howned⟩ := hwaited
    have hless : (run (m + 1)).owned.length < len :=
      hlen ▸ (step_completes hk hturn (hr m)).trans_le howned.length_le
    obtain ⟨i, hi, ho, hwaited'⟩ := ih _ hless (m + 1) (hx.of_waited hnext) rfl
    exact ⟨i, by omega, ho, hnext.trans hwaited'⟩

/-- Settles O60: the host waits until fairness has drained the transport. -/
theorem fairRunsDrainTheTransport : Obligations.FairRunsDrainTheTransport := by
  unfold Obligations.FairRunsDrainTheTransport
  intro run hr hfair n line hline hstmt
  obtain ⟨m, hm, ho, hhpc, hprogram, -⟩ := TransportFair.drains hr hfair n ⟨line, hline, hstmt⟩
  exact ⟨m, hm, ho, hhpc, hprogram⟩

end Sys2Proof.Machine

namespace Sys2Proof.Machine

/-! ### The check by its first error (R204, R206, R207) -/

/-- The reserved SCHEMEs are 0b10 and 0b11 (R72). -/
theorem schemeOf_eq_none_iff {x : BitVec 2} : schemeOf x = none ↔ x = 0b10#2 ∨ x = 0b11#2 := by
  revert x
  decide

/-- The source size of R77, as the statements' table gives it. -/
theorem srcbytes_eq (o : Op) (n : Nat) : srcbytes o n = if o.code = 0b01#2 then 3 * n else 0 := by
  cases o <;> rfl

/-- The check of a command whose selectors are defined: the conditions of R207 that are left, in its order. -/
theorem check_of_command {b : Block} {o : Op} {sch : Scheme} (h : b.command = some (o, sch)) (span : Range) :
    check span b =
      if BadRange span b.dstRange ∨ BadRange span b.srcRange then some .addrRange
      else if b.dstCap.toNat < b.dstRange.size then some .capacity
      else if b.srcRange.Meets b.dstRange then some .overlap
      else none := by
  obtain ⟨hop, hscheme⟩ := Block.command_eq_some.1 h
  rw [check, if_neg (by simp [hop]), if_neg (by simp [hscheme]), ite_or]

/-- A range is bad where it is not empty and runs past the last address or shares a byte with the span (R204). -/
theorem badRange_iff_shares (span r : Range) :
    BadRange span r ↔ r.size > 0 ∧ (r.base + r.size > 2 ^ 32 ∨ Spec.Shares r.base r.size span.base span.size) :=
  and_congr_right fun _ => or_congr_right (shares_iff_meets r span).symm

/-- Only a range that is not empty meets another (R206). -/
theorem meets_iff_pos_and_shares (r q : Range) :
    r.Meets q ↔ r.size > 0 ∧ Spec.Shares r.base r.size q.base q.size := by
  rw [shares_iff_meets]
  exact (and_iff_right_of_imp And.left).symm

/-- Settles O20: a reserved selector fails first; with defined ones the sizes are R77's, and the rest of the check asks
the conditions of R207 in turn. -/
theorem checkFollowsThePriority : Obligations.CheckFollowsThePriority := by
  unfold Obligations.CheckFollowsThePriority
  intro regBase b nb sb dst src hnb hsb hdst hsrc
  refine ⟨fun hop => check_of_reservedOp _ (opOf_eq_none_iff.2 hop), fun hop hsch =>
    check_of_reservedScheme _ (mt opOf_eq_none_iff.1 hop) (schemeOf_eq_none_iff.2 hsch), fun hop hsch => ?_⟩
  obtain ⟨o, ho⟩ := Op.exists_code hop
  obtain ⟨sch, hs⟩ := Scheme.exists_code hsch
  have hcmd : b.command = some (o, sch) := Block.command_of_codes ho hs
  have hdstRange : b.dstRange = ⟨dst, nb⟩ := by
    rw [Block.dstRange_of_command hcmd, nbytes_eq, hdst, hnb, ho, hs, Block.count]
  have hsrcRange : b.srcRange = ⟨src, sb⟩ := by
    rw [Block.srcRange_of_command hcmd, srcbytes_eq, hsrc, hsb, ho, Block.count]
  have hbad (r : Range) := badRange_iff_shares ⟨regBase, 0x20⟩ r
  rw [← hbad ⟨dst, nb⟩, ← hbad ⟨src, sb⟩, ← meets_iff_pos_and_shares ⟨src, sb⟩ ⟨dst, nb⟩, check_of_command hcmd,
    hdstRange, hsrcRange]
  refine ⟨fun hrange => if_pos hrange, fun hrange => ?_⟩
  rw [if_neg hrange]
  refine ⟨fun hcap => if_pos hcap, fun hcap hmeet => ?_, fun hcap hmeet => ?_⟩
  · rw [if_neg (Nat.not_lt.2 hcap), if_pos hmeet]
  · rw [if_neg (Nat.not_lt.2 hcap), if_neg hmeet]

/-! ### An error's completion (R200, R208) -/

/-- The code in STATUS is the error's number (R201). -/
theorem toNat_errorCode (e : CmdError) : (errorCode (some e)).toNat = Spec.codeNumber e := by cases e <;> rfl

/-- A completion writes the registers alone. -/
theorem State.untouched_complete (s : State) (err : Option CmdError) (n : Nat) :
    Spec.Untouched s (s.complete err n) := by
  simp [Spec.Untouched]

/-- Settles O21: with either memory the core's step is the error's completion, which writes the registers alone. -/
theorem errorCompletionTouchesNoMemory : Obligations.ErrorCompletionTouchesNoMemory := by
  unfold Obligations.ErrorCompletionTouchesNoMemory
  intro s e m hbusy hc
  have hops := coreStep_sameOperands s
  have hother : coreStep (s.withMem m) = (s.withMem m).complete (some e) 0 := coreStep_of_error hbusy hc
  rw [coreStep_of_error hbusy hc] at hops ⊢
  exact ⟨rfl, rfl, rfl, toNat_errorCode e, rfl, rfl, hops, s.untouched_complete _ _, rfl, rfl, rfl, hother⟩

/-! ### Colors (R210) -/

/-- What STATUS, BYTE_COUNT and the faults depend on in the core's step: the platform, their own values, what the check
answers, and the two ranges. The body enters by its length alone, which is the destination's size. -/
theorem coreStep_results_congr {s t : State} (hplatform : s.platform = t.platform) (hfaults : s.faults = t.faults)
    (hstatus : s.block.status = t.block.status) (hcount : s.block.byteCount = t.block.byteCount)
    (hcheck : check s.platform.span s.block = check t.platform.span t.block)
    (hsrcRange : s.block.srcRange = t.block.srcRange) (hdstRange : s.block.dstRange = t.block.dstRange) :
    (coreStep s).block.status = (coreStep t).block.status ∧
    (coreStep s).block.byteCount = (coreStep t).block.byteCount ∧ (coreStep s).faults = (coreStep t).faults := by
  rcases coreStep_cases s with ⟨hidle, h⟩ | ⟨e, hbusy, hc, h⟩ | ⟨hbusy, hc, hadm, h⟩ | ⟨hbusy, hc, hsrc, hdst, h⟩ <;>
    rw [h]
  · rw [coreStep_of_idle (hstatus ▸ hidle)]
    exact ⟨hstatus, hcount, hfaults⟩
  · rw [coreStep_of_error (hstatus ▸ hbusy) (hcheck ▸ hc)]
    simp [hstatus, hfaults]
  · rw [coreStep_of_notAdmitted (hstatus ▸ hbusy) (hcheck ▸ hc) (hplatform ▸ hsrcRange ▸ hdstRange ▸ hadm)]
    simp [hstatus, hcount, hfaults]
  · rw [coreStep_of_ok (hstatus ▸ hbusy) (hcheck ▸ hc) (hplatform ▸ hsrcRange ▸ hsrc) (hplatform ▸ hdstRange ▸ hdst)]
    simp [hstatus, hfaults, body_length, hdstRange]

theorem check_withColor (span : Range) (b : Block) (c : Color) : check span { b with color := c } = check span b := rfl

theorem Block.srcRange_withColor (b : Block) (c : Color) : { b with color := c }.srcRange = b.srcRange := rfl

theorem Block.dstRange_withColor (b : Block) (c : Color) : { b with color := c }.dstRange = b.dstRange := rfl

/-- Settles O26: neither the check nor a range reads COLOR or memory. -/
theorem colorsNeverCauseAnError : Obligations.ColorsNeverCauseAnError := by
  unfold Obligations.ColorsNeverCauseAnError
  intro s c m
  exact coreStep_results_congr rfl rfl rfl rfl (check_withColor s.platform.span s.block c)
    (s.block.srcRange_withColor c) (s.block.dstRange_withColor c)

end Sys2Proof.Machine

namespace Sys2Proof.Machine

/-! ### The launch state (R230, R234) -/

/-- Every register reads 0 after reset (R230). -/
theorem Block.value_reset (r : Reg) : Block.reset.value r = 0x00000000#32 := by
  cases r <;> decide

/-- Settles O50: the launch registers are the reset ones, and the reset state is the launch state by definition. -/
theorem resetIsTheLaunchState : Obligations.ResetIsTheLaunchState := by
  unfold Obligations.ResetIsTheLaunchState
  exact ⟨fun p m prog => ⟨Block.value_reset, rfl, rfl, rfl, rfl, fun v => rfl⟩, Config.platform, [], [], rfl⟩

/-- Settles O53: the reset registers are in a state a host can see, and there is neither a transfer in
flight nor a running command for the other two conditions to speak of. -/
theorem launchStateHasTheInvariant : Obligations.LaunchStateHasTheInvariant := by
  unfold Obligations.LaunchStateHasTheInvariant
  intro p m prog hm
  have howned : (State.launch p m prog).OwnedOK := fun r hr => absurd hr List.not_mem_nil
  have hexclusive : (State.launch p m prog).Exclusive := fun _ hbusy => absurd hbusy Bool.false_ne_true
  exact ⟨hm, Block.statusOK_reset, howned, hexclusive⟩

/-! ### The block reset (R230 to R232) -/

/-- A block reset leaves every register reading 0, whatever ran (R230). -/
theorem blockReset_value (s : State) (r : Reg) : (blockReset s).block.value r = 0x00000000#32 :=
  Block.value_reset r

/-- While idle a reset abandons no command, so there is no byte to draw. -/
theorem State.torn_of_idle {s : State} (hb : s.block.status.busy = false) : s.torn = [] := by
  simp [State.torn, hb]

theorem blockReset_draws_of_idle {s : State} (hb : s.block.status.busy = false) :
    (blockReset s).draws = s.draws := by
  simp [blockReset, State.torn_of_idle hb]

/-- Settles O51: the reset writes the registers, memory and the draw counter alone, and while idle neither of the
last two. -/
theorem blockResetClearsTheRegisters : Obligations.BlockResetClearsTheRegisters := by
  unfold Obligations.BlockResetClearsTheRegisters
  intro s
  refine ⟨blockReset_value s, rfl, rfl, rfl, rfl, rfl, rfl, rfl, rfl, rfl, fun hidle => ?_⟩
  exact ⟨blockReset_draws_of_idle hidle, fun a => by rw [blockReset_mem_of_idle hidle]⟩

/-- What the torn bytes hold for address `a` is the old byte, or the command's where `a`'s draw says so (R232). -/
theorem State.torn_byte (s : State) {a : Nat} (ha : s.block.dstAddr.toNat ≤ a) :
    (s.torn[a - s.block.dstAddr.toNat]?).getD (s.mem.read a) = s.mem.read a ∨
      (s.torn[a - s.block.dstAddr.toNat]?).getD (s.mem.read a) = s.newByte a := by
  by_cases hb : s.block.status.busy = true
  · rw [State.torn, if_pos hb, List.getElem?_mapIdx, State.newByte]
    cases s.pending[a - s.block.dstAddr.toNat]? with
    | none => exact Or.inl rfl
    | some b =>
      simp only [Option.map_some, Option.getD_some, Nat.add_sub_cancel' ha]
      split_ifs
      · exact Or.inr rfl
      · exact Or.inl rfl
  · rw [State.torn, if_neg hb]
    exact Or.inl rfl

/-- After a reset each byte is the old one or the value the abandoned command would have left there (R232). -/
theorem blockReset_read_cases {s : State} (hm : s.mem.wf) (a : Nat) :
    (blockReset s).mem.read a = s.mem.read a ∨ (blockReset s).mem.read a = s.newByte a := by
  obtain ⟨-, hbound⟩ := s.pending_bound
  have hlen := s.torn_length_le
  have hread : (blockReset s).mem.read a = if s.block.dstAddr.toNat ≤ a then
      (s.torn[a - s.block.dstAddr.toNat]?).getD (s.mem.read a) else s.mem.read a :=
    Memory.read_writeBytes hm (by omega) a
  rw [hread]
  split_ifs with ha
  · exact s.torn_byte ha
  · exact Or.inl rfl

/-- What a reset while BUSY leaves in a destination byte is what a host's read of it could have given (R232, R243). -/
theorem blockReset_read_oldOrNew {s : State} {a : Nat} (hm : s.mem.wf) (hb : s.block.status.busy = true)
    (ha : s.block.dstRange.Contains a) : OldOrNew s a ((blockReset s).mem.read a) := by
  rcases blockReset_read_cases hm a with hold | hnew
  · exact Or.inl hold
  · exact hnew ▸ State.newByte_oldOrNew hb ha

/-- A passed check keeps the source clear of the destination (R206). -/
theorem check_none_src_not_dst {span : Range} {b : Block} (hc : check span b = none) {a : Nat}
    (hsrc : b.srcRange.Contains a) : ¬ b.dstRange.Contains a := by
  obtain ⟨-, -, -, -, hdisjoint⟩ := check_none hc
  exact fun hdst => hdisjoint ((Range.meets_iff_common _ _).2 ⟨a, hsrc, hdst⟩)

/-- Settles O52: the destination bytes are old or new one by one, and the source of a command that passes its check
lies outside the destination. -/
theorem resetWhileBusyTearsTheDestination : Obligations.ResetWhileBusyTearsTheDestination := by
  unfold Obligations.ResetWhileBusyTearsTheDestination
  intro s a hm hb
  refine ⟨blockReset_value s .status, blockReset_read_outside hm, fun hc hsrc => ?_, fun hdst => ?_⟩
  · exact blockReset_read_outside hm (check_none_src_not_dst hc hsrc)
  · rcases blockReset_read_oldOrNew hm hb hdst with hold | ⟨-, -, hc, hnew⟩
    · exact Or.inl hold
    · exact Or.inr ⟨hc, hnew⟩

end Sys2Proof.Machine
